-- ==== Sys2Proof/Word.lean ====
section
/-! DEFINITION. The word types of the machine: bytes, 16-bit words, 4-bit fields, 12-bit addresses (spec 00 R6, R8). -/

namespace Sys2Proof

/-- 8 bits: a general register, a memory cell, a timer, the immediate `nn` (00 R6). -/
abbrev Byte := BitVec 8

/-- 16 bits: an instruction word, `I`, `PC`, a stack entry (00 R6). -/
abbrev Word := BitVec 16

/-- 4 bits: one nibble of a word, a register index, the row count `n` (30 R71). -/
abbrev Nibble := BitVec 4

/-- 12 bits: the immediate `nnn` (30 R71). -/
abbrev Addr12 := BitVec 12

end Sys2Proof
end

