-- ==== Sys2Proof/Syntax.lean ====
section
/-! DEFINITION. The instructions as syntax: one constructor per row of spec/opcode_table.json (30 R76). -/

namespace Sys2Proof

/-- The 34 instructions of 30 R76, in the table's order. Register indices and `n` are 4 bits, `nn` 8 bits, `nnn` 12 bits,
exactly the fields of 30 R71, so no operand can be out of range (30 R74, 60 R205). The shifts keep the `y` field that the
hardware ignores (30 R79), so that no bit of an encoding is lost. -/
inductive Instr where
  /-- row 1, `00E0`: `CLS` -/
  | cls
  /-- row 2, `00EE`: `RET` -/
  | ret
  /-- row 3, `1nnn`: `JP nnn` -/
  | jp (nnn : Addr12)
  /-- row 4, `2nnn`: `CALL nnn` -/
  | call (nnn : Addr12)
  /-- row 5, `3xnn`: `SE Vx, nn` -/
  | seImm (x : Nibble) (nn : Byte)
  /-- row 6, `4xnn`: `SNE Vx, nn` -/
  | sneImm (x : Nibble) (nn : Byte)
  /-- row 7, `5xy0`: `SE Vx, Vy` -/
  | seReg (x y : Nibble)
  /-- row 8, `6xnn`: `LD Vx, nn` -/
  | ldImm (x : Nibble) (nn : Byte)
  /-- row 9, `7xnn`: `ADD Vx, nn` -/
  | addImm (x : Nibble) (nn : Byte)
  /-- row 10, `8xy0`: `LD Vx, Vy` -/
  | ldReg (x y : Nibble)
  /-- row 11, `8xy1`: `OR Vx, Vy` -/
  | orReg (x y : Nibble)
  /-- row 12, `8xy2`: `AND Vx, Vy` -/
  | andReg (x y : Nibble)
  /-- row 13, `8xy3`: `XOR Vx, Vy` -/
  | xorReg (x y : Nibble)
  /-- row 14, `8xy4`: `ADD Vx, Vy` -/
  | addReg (x y : Nibble)
  /-- row 15, `8xy5`: `SUB Vx, Vy` -/
  | sub (x y : Nibble)
  /-- row 16, `8xy6`: `SHR Vx` (`y` ignored) -/
  | shr (x y : Nibble)
  /-- row 17, `8xy7`: `SUBN Vx, Vy` -/
  | subn (x y : Nibble)
  /-- row 18, `8xyE`: `SHL Vx` (`y` ignored) -/
  | shl (x y : Nibble)
  /-- row 19, `9xy0`: `SNE Vx, Vy` -/
  | sneReg (x y : Nibble)
  /-- row 20, `Annn`: `LD I, nnn` -/
  | ldI (nnn : Addr12)
  /-- row 21, `Bnnn`: `JP V0, nnn` -/
  | jpV0 (nnn : Addr12)
  /-- row 22, `Cxnn`: `RND Vx, nn` -/
  | rnd (x : Nibble) (nn : Byte)
  /-- row 23, `Dxyn`: `DRW Vx, Vy, n` -/
  | drw (x y n : Nibble)
  /-- row 24, `Ex9E`: `SKP Vx` -/
  | skp (x : Nibble)
  /-- row 25, `ExA1`: `SKNP Vx` -/
  | sknp (x : Nibble)
  /-- row 26, `Fx07`: `LD Vx, DT` -/
  | ldVxDt (x : Nibble)
  /-- row 27, `Fx0A`: `LD Vx, K` -/
  | ldVxK (x : Nibble)
  /-- row 28, `Fx15`: `LD DT, Vx` -/
  | ldDtVx (x : Nibble)
  /-- row 29, `Fx18`: `LD ST, Vx` -/
  | ldStVx (x : Nibble)
  /-- row 30, `Fx1E`: `ADD I, Vx` -/
  | addI (x : Nibble)
  /-- row 31, `Fx29`: `LD F, Vx` -/
  | ldF (x : Nibble)
  /-- row 32, `Fx33`: `LD B, Vx` -/
  | ldB (x : Nibble)
  /-- row 33, `Fx55`: `LD [I], Vx` -/
  | ldMemVx (x : Nibble)
  /-- row 34, `Fx65`: `LD Vx, [I]` -/
  | ldVxMem (x : Nibble)
  deriving DecidableEq, Repr

end Sys2Proof
end

