-- ==== Sys2Proof/Config.lean ====
section
/-! DEFINITION. What an implementation fixes: the spec's parameters with their defaults (00 R7), the fixed sizes (00 R6),
and the free value of the random source (10 R39). -/

namespace Sys2Proof

/-- The parameters of 00 R7 that the core itself uses while it runs. The machine carries them in its state, so that what is
proved for every state is proved for every value of them (log entry 1). -/
structure Config.Params where
  /-- `FONT_BASE`: first address of the font data (D2). -/
  fontBase : Nat
  /-- `GLYPH_BYTES`: bytes per glyph, used by `LD F, Vx` (D11). -/
  glyphBytes : Nat
  /-- `STACK_DEPTH`: number of stack entries (D4). -/
  stackDepth : Nat
  deriving DecidableEq, Repr

/-- DESIGN CHOICE (log entry 2): the spec's default `FONT_BASE` (00 R7). Unsafe for claims bound to the default. -/
def Config.fontBase : Nat := 0x000

/-- DESIGN CHOICE (log entry 1): the spec's defaults of 00 R7. Unsafe only for claims about `State.reset`. -/
def Config.Params.default : Config.Params where
  fontBase := Config.fontBase
  glyphBytes := 5
  stackDepth := 16

/-- DESIGN CHOICE (log entry 2): the spec's default `PROG_BASE` (00 R7, D1). -/
def Config.progBase : Nat := 0x200

/-- DESIGN CHOICE (log entry 2): the spec's default `INIT_DT` (00 R7, D3). -/
def Config.initDT : Nat := 0

/-- DESIGN CHOICE (log entry 2): the spec's default `INIT_ST` (00 R7, D3). -/
def Config.initST : Nat := 0

/-- DESIGN CHOICE (log entry 2): the spec's default `INIT_I` (00 R7, D3). -/
def Config.initI : Nat := 0

/-- Primary memory holds 4096 cells, addresses 0 to 4095 (00 R6, 20 R50). -/
abbrev Config.memSize : Nat := 4096

/-- The default `FONT_DATA`, glyphs 0 to 7 of the table of 70 R233. -/
def Config.fontLow : List Byte :=
  [0xF0, 0x90, 0x90, 0x90, 0xF0] ++ [0x20, 0x60, 0x20, 0x20, 0x70] ++
  [0xF0, 0x10, 0xF0, 0x80, 0xF0] ++ [0xF0, 0x10, 0xF0, 0x10, 0xF0] ++
  [0x90, 0x90, 0xF0, 0x10, 0x10] ++ [0xF0, 0x80, 0xF0, 0x10, 0xF0] ++
  [0xF0, 0x80, 0xF0, 0x90, 0xF0] ++ [0xF0, 0x10, 0x20, 0x40, 0x40]

/-- The default `FONT_DATA`, glyphs 8 to F of the table of 70 R233. -/
def Config.fontHigh : List Byte :=
  [0xF0, 0x90, 0xF0, 0x90, 0xF0] ++ [0xF0, 0x90, 0xF0, 0x10, 0xF0] ++
  [0xF0, 0x90, 0xF0, 0x90, 0x90] ++ [0xE0, 0x90, 0xE0, 0x90, 0xE0] ++
  [0xF0, 0x80, 0x80, 0x80, 0xF0] ++ [0xE0, 0x90, 0x90, 0x90, 0xE0] ++
  [0xF0, 0x80, 0xF0, 0x80, 0xF0] ++ [0xF0, 0x80, 0xF0, 0x80, 0x80]

/-- DESIGN CHOICE (log entry 2): the spec's default `FONT_DATA`, the 80-byte table of 70 R233. -/
def Config.fontData : List Byte := Config.fontLow ++ Config.fontHigh

/-- FREE VALUE (log entry 4, DESIGN CHOICE, safe): the byte the random source gives at its `k`-th draw, "a free value 0 to
255 under no law" (10 R39). It has no body: nothing can be proved of which byte it is. -/
opaque Config.freeByte : Nat → BitVec 8

end Sys2Proof
end

