-- ==== Sys2Proof/Machine/Event.lean ====
section
/-! DEFINITION. The events of 00 R13: everything that can change the core's state, one constructor per event. -/

namespace Sys2Proof.Machine

/-- The complete list of events of 00 R13, with the arguments the outside gives. An argument is kept as the outside sends it;
`Event.wf` (WellFormed.lean) says which the contract allows. -/
inductive Event where
  /-- `Step`, by the scheduler: one fetch, decode, execute (30 R70); `KEY` is sampled from `State.key`. -/
  | step
  /-- `TimerTick`, by the scheduler (44 R181). -/
  | timerTick
  /-- `KeyPress(code)`, by the input source (44 R186). -/
  | keyPress (code : Nat)
  /-- `KeyRelease`, by the input source (44 R186). -/
  | keyRelease
  /-- `AckClear`, by the renderer (43 R166). -/
  | ackClear
  /-- `AckRedraw`, by the renderer (43 R166). -/
  | ackRedraw
  /-- `DrainDirty`, by the renderer (43 R167). -/
  | drainDirty
  /-- `ReadDisplay(k)`, by the renderer (43 R168). -/
  | readDisplay (k : Nat)
  /-- `Initialize(startAddress, delayValue, soundValue, indexValue, fontData[])`, by the host (70 R231). -/
  | initialise (startAddress delayValue soundValue indexValue : Nat) (fontData : List Byte)
  /-- `LoadProgram(bytes, startAddress)`, by the host (70 R234). -/
  | loadProgram (bytes : List Byte) (startAddress : Nat)
  deriving DecidableEq, Repr

end Sys2Proof.Machine
end

