-- ==== Sys2Proof/WellFormed.lean ====
section
/-! DEFINITION. Well-formedness of instructions and of external events. -/

namespace Sys2Proof

/-- An instruction is well formed when its operands fit their fields. The types of `Instr`'s operands are the fields of 30
R71 themselves, so every term passes: "no instruction can name a register out of range" (30 R74, 60 R205), and the shifts
take any `y` (30 R79). -/
def Instr.wf : Instr → Bool
  | .cls | .ret => true
  | .jp _ | .call _ | .ldI _ | .jpV0 _ => true
  | .seImm _ _ | .sneImm _ _ | .ldImm _ _ | .addImm _ _ | .rnd _ _ => true
  | .seReg _ _ | .ldReg _ _ | .orReg _ _ | .andReg _ _ | .xorReg _ _ | .addReg _ _ | .sub _ _ | .shr _ _ | .subn _ _
  | .shl _ _ | .sneReg _ _ => true
  | .drw _ _ _ => true
  | .skp _ | .sknp _ | .ldVxDt _ | .ldVxK _ | .ldDtVx _ | .ldStVx _ | .addI _ | .ldF _ | .ldB _ | .ldMemVx _
  | .ldVxMem _ => true

/-- The contract of the outside on the events it issues: `KeyPress` sends a code 1 to 16 (44 R186, U14), `ReadDisplay` an
index 0 to 2047 (43 R168, U15), and `Initialize` a font that fits above `FONT_BASE` (70 R231, U13). `LoadProgram` is
defined for every image (70 R234). -/
def Machine.Event.wf (par : Config.Params) : Machine.Event → Bool
  | .step | .timerTick | .keyRelease | .ackClear | .ackRedraw | .drainDirty => true
  | .keyPress code => decide (1 ≤ code ∧ code ≤ 16)
  | .readDisplay k => decide (k ≤ 2047)
  | .initialise _ _ _ _ font => decide (par.fontBase + font.length ≤ Config.memSize)
  | .loadProgram _ _ => true

end Sys2Proof
end

