-- ==== Sys2Proof/Decode.lean ====
section
/-! DEFINITION. The decoder by the opcode table of 30 R76, and the encoder from the same patterns. -/

namespace Sys2Proof

/-- The six fields of an instruction word, all unsigned (30 R71). -/
structure Fields where
  /-- `c = w[15:12]`, the opcode class -/
  c : Nibble
  /-- `x = w[11:8]` -/
  x : Nibble
  /-- `y = w[7:4]` -/
  y : Nibble
  /-- `n = w[3:0]` -/
  n : Nibble
  /-- `nn = w[7:0]` -/
  nn : Byte
  /-- `nnn = w[11:0]` -/
  nnn : Addr12
  deriving DecidableEq, Repr

/-- All six fields are extracted from every word (30 R70 step 3, R71). -/
def fieldsOf (w : Word) : Fields where
  c := w.extractLsb' 12 4
  x := w.extractLsb' 8 4
  y := w.extractLsb' 4 4
  n := w.extractLsb' 0 4
  nn := w.extractLsb' 0 8
  nnn := w.extractLsb' 0 12

/-- A pattern of 30 R72: nibble 3 is always fixed, each of the others is a fixed digit (`some d`) or a wildcard (`none`). -/
structure Pattern where
  p3 : Nibble
  p2 : Option Nibble
  p1 : Option Nibble
  p0 : Option Nibble
  deriving DecidableEq, Repr

/-- One row of the opcode table: its pattern, its mnemonic and operands as written in 30 R76, and the instruction its fields
make. -/
structure Row where
  pattern : Pattern
  asm : String
  build : Fields → Instr

/-- A fixed nibble must match, a wildcard matches any value (30 R72). -/
def nibbleMatches (p : Option Nibble) (v : Nibble) : Bool :=
  match p with
  | some d => d == v
  | none => true

/-- "nibble-wise matching where a nibble position may be a wildcard" (30 R72). -/
def Pattern.holds (p : Pattern) (w : Word) : Bool :=
  p.p3 == (fieldsOf w).c && nibbleMatches p.p2 (fieldsOf w).x && nibbleMatches p.p1 (fieldsOf w).y &&
    nibbleMatches p.p0 (fieldsOf w).n

/-- The value of a fixed nibble, 0 in a wildcard position: a nibble of the row's `match` (30 R72). -/
def nibbleValue (p : Option Nibble) : Nibble := p.getD 0x0

/-- 0xF for a fixed nibble, 0x0 for a wildcard: a nibble of the row's `mask` (30 R72). -/
def nibbleMask (p : Option Nibble) : Nibble := if p.isSome then 0xF else 0x0

/-- The row's `match` as opcode_table.json writes it (30 R72). -/
def Pattern.matchWord (p : Pattern) : Word :=
  p.p3 ++ nibbleValue p.p2 ++ nibbleValue p.p1 ++ nibbleValue p.p0

/-- The row's `mask` as opcode_table.json writes it (30 R72). -/
def Pattern.maskWord (p : Pattern) : Word :=
  (0xF : Nibble) ++ nibbleMask p.p2 ++ nibbleMask p.p1 ++ nibbleMask p.p0

/-- Format `OP`: four fixed nibbles (30 R73). -/
def opFormat (d3 d2 d1 d0 : Nibble) : Pattern := ⟨d3, some d2, some d1, some d0⟩

/-- Formats `NNN`, `XNN` and `XYN`: only nibble 3 is fixed (30 R73). -/
def openFormat (d3 : Nibble) : Pattern := ⟨d3, none, none, none⟩

/-- Format `XY`: nibbles 3 and 0 are fixed (30 R73). -/
def xyFormat (d3 d0 : Nibble) : Pattern := ⟨d3, none, none, some d0⟩

/-- Format `X`: nibble 2 is a wildcard (30 R73). -/
def xFormat (d3 d1 d0 : Nibble) : Pattern := ⟨d3, none, some d1, some d0⟩

/-- Rows 1 to 10 of 30 R76. UNVERIFIED (log entry 9): the bit patterns are the spec's, which supplies them "from general
knowledge". -/
def opcodeRows1 : List Row :=
  [ ⟨opFormat 0x0 0x0 0xE 0x0, "CLS", fun _ => .cls⟩,
    ⟨opFormat 0x0 0x0 0xE 0xE, "RET", fun _ => .ret⟩,
    ⟨openFormat 0x1, "JP nnn", fun f => .jp f.nnn⟩,
    ⟨openFormat 0x2, "CALL nnn", fun f => .call f.nnn⟩,
    ⟨openFormat 0x3, "SE Vx, nn", fun f => .seImm f.x f.nn⟩,
    ⟨openFormat 0x4, "SNE Vx, nn", fun f => .sneImm f.x f.nn⟩,
    ⟨xyFormat 0x5 0x0, "SE Vx, Vy", fun f => .seReg f.x f.y⟩,
    ⟨openFormat 0x6, "LD Vx, nn", fun f => .ldImm f.x f.nn⟩,
    ⟨openFormat 0x7, "ADD Vx, nn", fun f => .addImm f.x f.nn⟩,
    ⟨xyFormat 0x8 0x0, "LD Vx, Vy", fun f => .ldReg f.x f.y⟩ ]

/-- Rows 11 to 23 of 30 R76. -/
def opcodeRows2 : List Row :=
  [ ⟨xyFormat 0x8 0x1, "OR Vx, Vy", fun f => .orReg f.x f.y⟩,
    ⟨xyFormat 0x8 0x2, "AND Vx, Vy", fun f => .andReg f.x f.y⟩,
    ⟨xyFormat 0x8 0x3, "XOR Vx, Vy", fun f => .xorReg f.x f.y⟩,
    ⟨xyFormat 0x8 0x4, "ADD Vx, Vy", fun f => .addReg f.x f.y⟩,
    ⟨xyFormat 0x8 0x5, "SUB Vx, Vy", fun f => .sub f.x f.y⟩,
    ⟨xyFormat 0x8 0x6, "SHR Vx", fun f => .shr f.x f.y⟩,
    ⟨xyFormat 0x8 0x7, "SUBN Vx, Vy", fun f => .subn f.x f.y⟩,
    ⟨xyFormat 0x8 0xE, "SHL Vx", fun f => .shl f.x f.y⟩,
    ⟨xyFormat 0x9 0x0, "SNE Vx, Vy", fun f => .sneReg f.x f.y⟩,
    ⟨openFormat 0xA, "LD I, nnn", fun f => .ldI f.nnn⟩,
    ⟨openFormat 0xB, "JP V0, nnn", fun f => .jpV0 f.nnn⟩,
    ⟨openFormat 0xC, "RND Vx, nn", fun f => .rnd f.x f.nn⟩,
    ⟨openFormat 0xD, "DRW Vx, Vy, n", fun f => .drw f.x f.y f.n⟩ ]

/-- Rows 24 to 34 of 30 R76. -/
def opcodeRows3 : List Row :=
  [ ⟨xFormat 0xE 0x9 0xE, "SKP Vx", fun f => .skp f.x⟩,
    ⟨xFormat 0xE 0xA 0x1, "SKNP Vx", fun f => .sknp f.x⟩,
    ⟨xFormat 0xF 0x0 0x7, "LD Vx, DT", fun f => .ldVxDt f.x⟩,
    ⟨xFormat 0xF 0x0 0xA, "LD Vx, K", fun f => .ldVxK f.x⟩,
    ⟨xFormat 0xF 0x1 0x5, "LD DT, Vx", fun f => .ldDtVx f.x⟩,
    ⟨xFormat 0xF 0x1 0x8, "LD ST, Vx", fun f => .ldStVx f.x⟩,
    ⟨xFormat 0xF 0x1 0xE, "ADD I, Vx", fun f => .addI f.x⟩,
    ⟨xFormat 0xF 0x2 0x9, "LD F, Vx", fun f => .ldF f.x⟩,
    ⟨xFormat 0xF 0x3 0x3, "LD B, Vx", fun f => .ldB f.x⟩,
    ⟨xFormat 0xF 0x5 0x5, "LD [I], Vx", fun f => .ldMemVx f.x⟩,
    ⟨xFormat 0xF 0x6 0x5, "LD Vx, [I]", fun f => .ldVxMem f.x⟩ ]

/-- The opcode table, 34 rows in the order of 30 R76. The order does not matter (30 R75). -/
def opcodeTable : List Row := opcodeRows1 ++ opcodeRows2 ++ opcodeRows3

/-- Why bytes decode to no instruction. -/
inductive DecodeError where
  /-- The word matches no row of the table: the decode failure of 30 R77. Raised by `decode`; safe. -/
  | unmatched (w : Word)
  /-- Fewer than the two bytes of a word were given (`have` of them). Raised by `decodeBytes` only: the machine always
  fetches two bytes (30 R70). Safe. -/
  | truncated (got : Nat)
  deriving DecidableEq, Repr

/-- Classify the word against the table and build the matching row's instruction (30 R70 steps 3 and 4); a word that matches
no row is refused by name (30 R77). -/
def decode (w : Word) : Except DecodeError Instr :=
  match opcodeTable.find? fun r => r.pattern.holds w with
  | some r => .ok (r.build (fieldsOf w))
  | none => .error (.unmatched w)

/-- The word of two bytes, the high byte at the lower address (20 R55). -/
def wordOfBytes (hi lo : Byte) : Word := hi ++ lo

/-- The decoder on bytes: one instruction and the bytes after it; total, refusing by name (30 R71, R77). -/
def decodeBytes : List Byte → Except DecodeError (Instr × List Byte)
  | hi :: lo :: rest =>
    match decode (wordOfBytes hi lo) with
    | .ok i => .ok (i, rest)
    | .error e => .error e
  | [_] => .error (.truncated 1)
  | [] => .error (.truncated 0)

/-- The bytes of a word as memory holds them: high byte first (20 R55). -/
def bytesOfWord (w : Word) : List Byte := [w.extractLsb' 8 8, w.extractLsb' 0 8]

/-- The instruction the decoder reads from an instruction whose bits are `w`, bit 0 the least significant; `nbits` is the
row's width (16 in every row of the table), bits above it are 0. -/
def decodeTableWord (nbits w : Nat) : Option Instr :=
  match decodeBytes (bytesOfWord (BitVec.ofNat 16 (w % 2 ^ nbits))) with
  | .ok (i, _) => some i
  | .error _ => none

/-- Format `NNN`: fixed nibble 3 and `nnn` (30 R73). -/
def encodeNNN (d3 : Nibble) (nnn : Addr12) : Word := d3 ++ nnn

/-- Format `XNN`: fixed nibble 3, `x`, `nn` (30 R73). -/
def encodeXNN (d3 x : Nibble) (nn : Byte) : Word := d3 ++ x ++ nn

/-- Formats `XY` and `XYN`: fixed nibble 3, `x`, `y`, nibble 0 (30 R73). -/
def encodeXY (d3 x y d0 : Nibble) : Word := d3 ++ x ++ y ++ d0

/-- Format `X`: fixed nibble 3, `x`, fixed low byte (30 R73). -/
def encodeX (d3 x : Nibble) (low : Byte) : Word := d3 ++ x ++ low

/-- The word of an instruction, by the patterns of 30 R76. -/
def encode : Instr → Word
  | .cls => 0x00E0
  | .ret => 0x00EE
  | .jp nnn => encodeNNN 0x1 nnn
  | .call nnn => encodeNNN 0x2 nnn
  | .seImm x nn => encodeXNN 0x3 x nn
  | .sneImm x nn => encodeXNN 0x4 x nn
  | .seReg x y => encodeXY 0x5 x y 0x0
  | .ldImm x nn => encodeXNN 0x6 x nn
  | .addImm x nn => encodeXNN 0x7 x nn
  | .ldReg x y => encodeXY 0x8 x y 0x0
  | .orReg x y => encodeXY 0x8 x y 0x1
  | .andReg x y => encodeXY 0x8 x y 0x2
  | .xorReg x y => encodeXY 0x8 x y 0x3
  | .addReg x y => encodeXY 0x8 x y 0x4
  | .sub x y => encodeXY 0x8 x y 0x5
  | .shr x y => encodeXY 0x8 x y 0x6
  | .subn x y => encodeXY 0x8 x y 0x7
  | .shl x y => encodeXY 0x8 x y 0xE
  | .sneReg x y => encodeXY 0x9 x y 0x0
  | .ldI nnn => encodeNNN 0xA nnn
  | .jpV0 nnn => encodeNNN 0xB nnn
  | .rnd x nn => encodeXNN 0xC x nn
  | .drw x y n => encodeXY 0xD x y n
  | .skp x => encodeX 0xE x 0x9E
  | .sknp x => encodeX 0xE x 0xA1
  | .ldVxDt x => encodeX 0xF x 0x07
  | .ldVxK x => encodeX 0xF x 0x0A
  | .ldDtVx x => encodeX 0xF x 0x15
  | .ldStVx x => encodeX 0xF x 0x18
  | .addI x => encodeX 0xF x 0x1E
  | .ldF x => encodeX 0xF x 0x29
  | .ldB x => encodeX 0xF x 0x33
  | .ldMemVx x => encodeX 0xF x 0x55
  | .ldVxMem x => encodeX 0xF x 0x65

/-- The bytes of an instruction as memory holds them (30 R71, 20 R55). -/
def encodeBytes (i : Instr) : List Byte := bytesOfWord (encode i)

end Sys2Proof
end

