-- ==== Sys2Proof/Machine/State.lean ====
section
/-! DEFINITION. The machine's state as plain data (10_state), its reset value, and the reasons a step can stop. -/

namespace Sys2Proof.Machine

/-- Primary memory (10 R31): address and byte pairs, addresses strictly rising, none equal to what an unlisted address reads
as (`Memory.wf`). -/
abbrev Memory := List Host.Cell

/-- What an unlisted address reads as: its reset contents, the byte of the default font or 0 (10 R46). DESIGN CHOICE (log entry
8), safe: it only says which memories share the empty list; `Initialize` with other arguments lists its own bytes. -/
def Memory.unlisted (a : Nat) : Byte :=
  if Config.fontBase ≤ a then Config.fontData[a - Config.fontBase]?.getD 0 else 0

/-- The canonical form: addresses strictly rising and below 4096, no entry equal to what an unlisted address reads as. -/
abbrev Memory.wf (m : Memory) : Prop :=
  m.Pairwise (fun c d => c.1 < d.1) ∧ ∀ c ∈ m, c.1 < Config.memSize ∧ c.2 ≠ Memory.unlisted c.1

/-- The display buffer: 32 rows of 64 one-bit cells, row 0 at the top; bit `c` of a row is its column `c`, 1 = on (10 R32). -/
abbrev Display := Vector (BitVec 64) 32

/-- Every cell off. -/
def Display.clear : Display := Vector.replicate 32 0

/-- The three fatal conditions (60 R200). -/
inductive FatalCause where
  /-- Code 2: `RET` with an empty stack (60 R202). -/
  | stackUnderflow
  /-- Code 3: `CALL` with a full stack (60 R203). -/
  | stackOverflow
  /-- Code 4: an access to primary memory at `addr`, above 4095 (60 R204). -/
  | addressOutOfRange (addr : Nat)
  deriving DecidableEq, Repr

/-- What a fatal fault reports and the core records: the cause and the `PC` of the faulting instruction (60 R200, R206). -/
structure FatalReport where
  cause : FatalCause
  pc : Word
  deriving DecidableEq, Repr

/-- Everything the spec gives the machine (10_state), and three fields of the model's own: `par`, `draws`, `script`. -/
structure State where
  /-- `V[0]` to `V[15]` (10 R20); `V[15]` is `VF` (10 R22). -/
  v : Vector Byte 16
  /-- The index register `I` (10 R23). -/
  i : Word
  /-- The program counter `PC` (10 R24): the address of the instruction being executed (10 R25). -/
  pc : Word
  /-- The call stack `STK[0 .. SP-1]`, entry 0 first; `SP` is its length (10 R28). -/
  stk : List Word
  /-- Primary memory (10 R31). -/
  mem : Memory
  /-- The display buffer `Disp`, cell `k` at column `k mod 64`, row `k div 64` (10 R32). -/
  disp : Display
  /-- The dirty queue `DQ`, oldest first, unbounded (10 R33). -/
  dq : List (Fin 2048)
  /-- `CLRP`, screen-clear pending (10 R34). -/
  clrp : Bool
  /-- `RDRP`, redraw pending (10 R34). -/
  rdrp : Bool
  /-- The delay timer `DT` (10 R35). -/
  dt : Byte
  /-- The sound timer `ST` (10 R35). -/
  st : Byte
  /-- The keyboard register `KEY`, 0 to 16, 0 = none: an input of the core (10 R36). -/
  key : Fin 17
  /-- `WAIT`, suspended in a key-wait (10 R37). -/
  wait : Bool
  /-- `FAULTED` (10 R38): `some r` is `FAULTED == 1` with the recorded fault `r` (30 R70 step 1). -/
  faulted : Option FatalReport
  /-- The model's own (log entry 1): the parameters of 00 R7 the core uses; nothing changes them. -/
  par : Config.Params
  /-- The model's own (log entry 4): how many bytes the random source has given (10 R39). -/
  draws : Nat
  /-- The model's own (log entry 5): the events the outside issues next, in order (00 R13); when it is empty the outside issues
  `Step` events. -/
  script : List Event
  deriving DecidableEq, Repr

/-- The state after `Initialize` with the default arguments (10 R46, 70 R231). DESIGN CHOICE (log entries 1 to 5), unsafe for
claims bound to them: `KEY`, which `Initialize` does not touch, is 0 (no key pressed); the defaults are those of 00 R7. -/
def State.reset : State where
  v := Vector.replicate 16 0
  i := BitVec.ofNat 16 Config.initI
  pc := BitVec.ofNat 16 Config.progBase
  stk := []
  mem := []
  disp := Display.clear
  dq := []
  clrp := false
  rdrp := false
  dt := BitVec.ofNat 8 Config.initDT
  st := BitVec.ofNat 8 Config.initST
  key := 0
  wait := false
  faulted := none
  par := Config.Params.default
  draws := 0
  script := []

/-- The machine stops with one of these (60 R200). -/
inductive Fault where
  /-- Code 1, `DecodeFailure(pc, w)`: raised by a `Step` for any word that matches no row (60 R201). Non-fatal: no state changes,
  `FAULTED` is not set; treated as a fault of the run, as 60 R201 asks. Safe. -/
  | decodeFailure (pc w : Word)
  /-- Codes 2 to 4: raised by `RET` (`stackUnderflow`), `CALL` (`stackOverflow`), by the fetch, `DRW`, `LD B, Vx`, `LD [I], Vx`,
  `LD Vx, [I]` (`addressOutOfRange`), and by every `Step` while `FAULTED == 1`. `after` is the state the core is left in: nothing
  changed but `FAULTED`, which records the report (60 R206). Safe: the run ends here; what still acts on `after` is in
  `handle` (log entry 6). -/
  | fatal (report : FatalReport) (after : State)
  deriving DecidableEq, Repr

/-- What has no meaning in the model. -/
inductive Refusal where
  /-- An instruction that has no meaning yet; raised only by `exec`'s arms. Safe. -/
  | notModelled (mnemonic : String)
  /-- `KeyPress(code)` with a code outside 1 to 16: "no defined effect" (44 R186, U14). Raised by `keyPress`. Safe. -/
  | keyCodeOutOfRange (code : Nat)
  /-- `ReadDisplay(k)` with `k > 2047`: "no defined result" (43 R168, U15). Raised by `readDisplay`. Safe. -/
  | displayIndexOutOfRange (k : Nat)
  /-- `Initialize` with a font that does not fit above `FONT_BASE` (70 R231, U13). Raised by `initialise`. Safe. -/
  | fontDoesNotFit (length : Nat)
  /-- An event other than `Initialize` before the first `Initialize` (70 R230, U8). Raised by `handleAtPowerOn`. Safe. -/
  | notInitialised
  deriving DecidableEq, Repr

end Sys2Proof.Machine
end

