-- ==== Sys2Proof/Machine/Ops.lean ====
section
/-! DEFINITION. The named operations over registers, the stack, memory and the other state; taking a fatal fault; fetching. -/

namespace Sys2Proof.Machine

/-- The outcome of an instruction or of a step. -/
abbrev Result := Host.Outcome State Fault Refusal

/-! Registers (10 R20 to R27). A register's type is its width, so a write is masked by the value's own type (10 R21). -/

/-- `V[x]` (10 R20). -/
def State.reg (s : State) (x : Nibble) : Byte := s.v[x.toNat]'x.isLt

/-- `V[x] <- b` (10 R20, R21). -/
def State.setReg (s : State) (x : Nibble) (b : Byte) : State := { s with v := s.v.set x.toNat b x.isLt }

/-- All sixteen registers at once. -/
def State.setRegs (s : State) (v : Vector Byte 16) : State := { s with v := v }

/-- `I <- w` (10 R23). -/
def State.setI (s : State) (w : Word) : State := { s with i := w }

/-- `pc <- w` (10 R24); the write never faults (10 R27). -/
def State.setPc (s : State) (w : Word) : State := { s with pc := w }

/-- `pc <- PC + 2`, modulo 65536 (10 R26, R27). -/
def State.advance (s : State) : State := s.setPc (s.pc + 2)

/-- A skip: `pc <- PC + 4` when the condition holds, else `pc <- PC + 2` (10 R26). -/
def State.skipIf (s : State) (cond : Bool) : State := s.setPc (if cond then s.pc + 4 else s.pc + 2)

/-! The other state, one write per field. -/

/-- The stack replaced. -/
def State.setStk (s : State) (stk : List Word) : State := { s with stk := stk }

/-- Primary memory replaced. -/
def State.setMem (s : State) (m : Memory) : State := { s with mem := m }

/-- The display and the dirty queue replaced. -/
def State.setScreen (s : State) (disp : Display) (dq : List (Fin 2048)) : State :=
  { s with disp := disp, dq := dq }

/-- `CLRP <- b` (10 R34). -/
def State.setClrp (s : State) (b : Bool) : State := { s with clrp := b }

/-- `RDRP <- b` (10 R34). -/
def State.setRdrp (s : State) (b : Bool) : State := { s with rdrp := b }

/-- `DT <- b` (10 R35). -/
def State.setDt (s : State) (b : Byte) : State := { s with dt := b }

/-- `ST <- b` (10 R35). -/
def State.setSt (s : State) (b : Byte) : State := { s with st := b }

/-- `KEY <- k`, by the input source's events only (10 R36). -/
def State.setKey (s : State) (k : Fin 17) : State := { s with key := k }

/-- `WAIT <- b` (10 R37). -/
def State.setWait (s : State) (b : Bool) : State := { s with wait := b }

/-- `FAULTED` and the recorded fault (10 R38). -/
def State.setFaulted (s : State) (f : Option FatalReport) : State := { s with faulted := f }

/-- The number of bytes drawn from the random source. -/
def State.setDraws (s : State) (n : Nat) : State := { s with draws := n }

/-- The events still to come. -/
def State.setScript (s : State) (es : List Event) : State := { s with script := es }

/-! Taking a fatal fault (60 R206). -/

/-- Fatal fault entry, the one operation for all causes (60 R206): no register, memory cell, stack entry, display cell, queue or
flag changes, `PC` keeps the address of the faulting instruction, `FAULTED <- 1`, and the cause with `PC` is reported and
recorded. There is no return from it but `Initialize` (60 R209). -/
def State.raise (s : State) (c : FatalCause) : Result :=
  .fault (.fatal ⟨c, s.pc⟩ (s.setFaulted (some ⟨c, s.pc⟩)))

/-- Run a checked operation: its value goes on, its cause is raised before anything is written (00 R11 phase 2). -/
def State.check {α : Type} (s : State) (r : Except FatalCause α) (k : α → Result) : Result :=
  match r with
  | .ok a => k a
  | .error c => s.raise c

/-- The fault codes of 60 R200. -/
def FatalCause.code : FatalCause → Nat
  | .stackUnderflow => 2
  | .stackOverflow => 3
  | .addressOutOfRange _ => 4

/-- The fault codes of 60 R200. -/
def Fault.code : Fault → Nat
  | .decodeFailure _ _ => 1
  | .fatal r _ => r.cause.code

/-- The state the core stands in after an outcome: the next state; the frozen state of a fatal fault (60 R206); the same state
after a decode failure (60 R201) or a refusal. -/
def State.after (s : State) : Result → State
  | .next t => t
  | .fault (.fatal _ t) => t
  | .fault (.decodeFailure _ _) => s
  | .refused _ => s

/-! The call stack (10 R28 to R30). -/

/-- `Push(v)` (10 R29): a full stack raises `StackOverflow`. -/
def State.push (s : State) (w : Word) : Except FatalCause State :=
  if s.stk.length < s.par.stackDepth then .ok (s.setStk (s.stk ++ [w])) else .error .stackOverflow

/-- `Pop()` (10 R30): an empty stack raises `StackUnderflow`; else the top entry and the state without it. -/
def State.pop (s : State) : Except FatalCause (Word × State) :=
  match s.stk.getLast? with
  | some w => .ok (w, s.setStk s.stk.dropLast)
  | none => .error .stackUnderflow

/-! Memory (20 R50 to R59). -/

/-- The byte at `a`: the listed one, else what an unlisted address reads as. -/
def Memory.read : Memory → Nat → Byte
  | [], a => Memory.unlisted a
  | (c, d) :: m, a => if a = c then d else Memory.read m a

/-- The cell `(a, b)` in front of `m`, left out when `b` is what an unlisted address reads as. -/
def Memory.entry (a : Nat) (b : Byte) (m : Memory) : Memory :=
  if b = Memory.unlisted a then m else (a, b) :: m

/-- The byte `b` stored at `a`, and nothing else changed (20 R53); keeps the canonical form. -/
def Memory.write : Memory → Nat → Byte → Memory
  | [], a, b => Memory.entry a b []
  | (c, d) :: m, a, b =>
    if a < c then Memory.entry a b ((c, d) :: m)
    else if a = c then Memory.entry a b m
    else (c, d) :: Memory.write m a b

/-- The bytes stored at `a`, `a + 1`, ..., in ascending order (20 R56). -/
def Memory.writeBytes : Memory → Nat → List Byte → Memory
  | m, _, [] => m
  | m, a, b :: bs => Memory.writeBytes (Memory.write m a b) (a + 1) bs

/-- The `n` bytes at `a`, `a + 1`, ..., in ascending order (20 R56). -/
def Memory.readBytes (m : Memory) (a n : Nat) : List Byte := (List.range n).map fun j => Memory.read m (a + j)

/-- `clear()`: the memory whose every cell is 0 (20 R50); it lists a 0 wherever an unlisted address reads as something else. -/
def Memory.cleared : Memory :=
  (List.range Config.fontData.length).filterMap fun j =>
    if Memory.unlisted (Config.fontBase + j) = 0 then none else some (Config.fontBase + j, 0)

/-- The range check of 20 R59 and R54: `n` bytes from the natural address `a` must end at or below 4095; otherwise
`AddressOutOfRange` of the highest address. An empty range is never checked (43 R165 (a)). -/
def rangeCheck (a n : Nat) : Except FatalCause Unit :=
  if 0 < n ∧ 4095 < a + n - 1 then .error (.addressOutOfRange (a + n - 1)) else .ok ()

/-- Read a range, checked whole first (20 R52, R59). -/
def State.readBlock (s : State) (a n : Nat) : Except FatalCause (List Byte) :=
  match rangeCheck a n with
  | .ok _ => .ok (Memory.readBytes s.mem a n)
  | .error c => .error c

/-- Write a range, checked whole before any byte is written (20 R53, R59). -/
def State.writeBlock (s : State) (a : Nat) (bytes : List Byte) : Except FatalCause State :=
  match rangeCheck a bytes.length with
  | .ok _ => .ok (s.setMem (Memory.writeBytes s.mem a bytes))
  | .error c => .error c

/-- `MemRead(addr, 1)` (20 R52). -/
def State.memRead (s : State) (a : Nat) : Except FatalCause Byte :=
  if 4095 < a then .error (.addressOutOfRange a) else .ok (Memory.read s.mem a)

/-- Fetch (30 R70 step 2): the bytes at `PC` and `PC + 1`, whatever the parity of `PC` (20 R57), big-endian (20 R55). `PC > 4095`
raises `AddressOutOfRange(PC)`, `PC == 4095` raises `AddressOutOfRange(4096)`. -/
def State.fetch (s : State) : Except FatalCause Word :=
  match s.memRead s.pc.toNat with
  | .error c => .error c
  | .ok hi =>
    match s.memRead (s.pc.toNat + 1) with
    | .error c => .error c
    | .ok lo => .ok (wordOfBytes hi lo)

/-! Display (10 R32). -/

/-- `Disp[k]`: whether cell `k` is on (10 R32, 43 R168). -/
def Display.lit (d : Display) (k : Fin 2048) : Bool := (d[k.val / 64]'(by omega)).getLsbD (k.val % 64)

/-- `Disp[k] <- Disp[k] ^ 1` (43 R161): cell `k` inverted, no other cell changed. -/
def Display.toggle (d : Display) (k : Fin 2048) : Display :=
  d.set (k.val / 64) (d[k.val / 64]'(by omega) ^^^ BitVec.twoPow 64 (k.val % 64)) (by omega)

/-! Random source and sound (10 R39, 44 R184). -/

/-- The byte drawn for this `RND` (10 R39): the free value of the draw the machine is at. -/
def State.drawn (s : State) : Byte := Config.freeByte s.draws

/-- The sound level `SND = (ST != 0 ? 1 : 0)` (44 R184). -/
def State.snd (s : State) : Bool := s.st != 0

end Sys2Proof.Machine
end

