-- ==== Sys2Proof/Machine/Flags.lean ====
section
/-! DEFINITION. The flag `VF` (10 R42 to R45) and the results it belongs to; arithmetic is exact on naturals and then masked
(40 R112). -/

namespace Sys2Proof.Machine

/-- `(c ? 1 : 0)` as `VF` holds it. -/
def flagByte (c : Bool) : Byte := if c then 1 else 0

/-- `VF <- flag` first, `V[x] <- r` second: with `x = 15` the result is what `VF` holds afterwards (00 R11, D6). -/
def State.flagThenReg (s : State) (flag : Bool) (x : Nibble) (r : Byte) : State :=
  (s.setReg 15 (flagByte flag)).setReg x r

/-- `addWithCarry` with limit 255: the carry out of `a + b` (40 R106). -/
def addCarry (a b : Byte) : Bool := decide (a.toNat + b.toNat > 255)

/-- The sum masked to 8 bits (40 R101, R106). -/
def addByte (a b : Byte) : Byte := BitVec.ofNat 8 (a.toNat + b.toNat)

/-- `SUB`'s flag: `a > b`, strict (40 R107, conflict C4). -/
def subFlag (a b : Byte) : Bool := decide (a.toNat > b.toNat)

/-- `SUBN`'s flag: `a <= b` (40 R109). -/
def subnFlag (a b : Byte) : Bool := decide (a.toNat ≤ b.toNat)

/-- `(a - b) mod 256` with the non-negative remainder (00 R9, 40 R112). -/
def subByte (a b : Byte) : Byte := BitVec.ofInt 8 ((a.toNat : Int) - (b.toNat : Int))

/-- `SHR`'s flag: bit 0 of the old value (40 R108). -/
def shrFlag (a : Byte) : Bool := a.getLsbD 0

/-- `SHL`'s flag: bit 7 of the old value (40 R110). -/
def shlFlag (a : Byte) : Bool := a.getLsbD 7

/-- `a >> 1`, logical (40 R108). -/
def shrByte (a : Byte) : Byte := BitVec.ofNat 8 (a.toNat / 2)

/-- `(a << 1) mod 256` (40 R110). -/
def shlByte (a : Byte) : Byte := BitVec.ofNat 8 (a.toNat * 2)

/-- `addWithCarry` with limit 0xFFF: the 16-bit sum `(I + V[x]) mod 65536` (42 R141). -/
def indexSum (i : Word) (b : Byte) : Word := BitVec.ofNat 16 (i.toNat + b.toNat)

/-- `ADD I, Vx`'s flag: the 16-bit sum is above 0xFFF (42 R141). -/
def indexFlag (i : Word) (b : Byte) : Bool := decide ((indexSum i b).toNat > 0xFFF)

/-- What `LD ST, Vx` stores: exactly 1 becomes 2, every other value is stored as is (44 R187). -/
def soundValue (b : Byte) : Byte := if b = 1 then 2 else b

end Sys2Proof.Machine
end

