-- ==== Sys2Proof/Machine/Operands.lean ====
section
/-! DEFINITION. The operand forms (30 R74, 42 R146): immediates, effective addresses, block operands, key and glyph values. -/

namespace Sys2Proof.Machine

/-- `nnn` met by a 16-bit register: zero-extended, a byte address used as is (30 R74). -/
def zextAddr (nnn : Addr12) : Word := nnn.setWidth 16

/-- The effective address `I + j`: a natural number, never reduced (20 R54, 42 R146). -/
def State.ea (s : State) (j : Nat) : Nat := s.i.toNat + j

/-- The bytes of `V[0]` to `V[x]`, ascending (42 R144). -/
def State.regsTo (s : State) (x : Nibble) : List Byte := s.v.toList.take (x.toNat + 1)

/-- `V[0]` to `V[x]` replaced by the bytes read, the registers above `V[x]` kept (42 R145). -/
def loadRegsTo (v : Vector Byte 16) (x : Nibble) (bytes : List Byte) : Vector Byte 16 :=
  Vector.ofFn fun j => if j.val ≤ x.toNat then bytes[j.val]?.getD 0 else v[j]

/-- The hundreds, tens and ones digits of a byte, one byte each (42 R143). -/
def bcdDigits (b : Byte) : List Byte :=
  [BitVec.ofNat 8 (b.toNat / 100), BitVec.ofNat 8 (b.toNat / 10 % 10), BitVec.ofNat 8 (b.toNat % 10)]

/-- `KEY` as the byte a register holds, 0 to 16 (44 R185, R186). -/
def State.keyByte (s : State) : Byte := BitVec.ofNat 8 s.key.val

/-- The address of the glyph for a register's value, all 8 bits used (42 R142): `(FONT_BASE + GLYPH_BYTES * V[x]) mod 65536`. -/
def State.glyphAddr (s : State) (b : Byte) : Word := BitVec.ofNat 16 (s.par.fontBase + s.par.glyphBytes * b.toNat)

/-- The target of `JP V0, nnn`: `(nnn + V[0]) mod 65536`, not reduced to 12 bits (41 R126). -/
def State.offsetTarget (s : State) (nnn : Addr12) : Word := BitVec.ofNat 16 (nnn.toNat + (s.reg 0).toNat)

end Sys2Proof.Machine
end

