-- ==== Sys2Proof/Machine/Alu.lean ====
section
/-! DEFINITION. The ALU instructions (spec file 40): loads, adds, bitwise family, subtractions, shifts, random. None faults. -/

namespace Sys2Proof.Machine

/-- `LD Vx, nn` (40 R100). -/
def execLdImm (x : Nibble) (nn : Byte) (s : State) : Result := .next (s.setReg x nn).advance

/-- `ADD Vx, nn` (40 R101): no flag. -/
def execAddImm (x : Nibble) (nn : Byte) (s : State) : Result := .next (s.setReg x (addByte (s.reg x) nn)).advance

/-- `LD Vx, Vy` (40 R102). -/
def execLdReg (x y : Nibble) (s : State) : Result := .next (s.setReg x (s.reg y)).advance

/-- `OR Vx, Vy` (40 R103): `VF` is not reset (10 R44). -/
def execOrReg (x y : Nibble) (s : State) : Result := .next (s.setReg x (s.reg x ||| s.reg y)).advance

/-- `AND Vx, Vy` (40 R104). -/
def execAndReg (x y : Nibble) (s : State) : Result := .next (s.setReg x (s.reg x &&& s.reg y)).advance

/-- `XOR Vx, Vy` (40 R105). -/
def execXorReg (x y : Nibble) (s : State) : Result := .next (s.setReg x (s.reg x ^^^ s.reg y)).advance

/-- `ADD Vx, Vy` (40 R106). -/
def execAddReg (x y : Nibble) (s : State) : Result :=
  .next (s.flagThenReg (addCarry (s.reg x) (s.reg y)) x (addByte (s.reg x) (s.reg y))).advance

/-- `SUB Vx, Vy` (40 R107): `V[x] - V[y]`. -/
def execSub (x y : Nibble) (s : State) : Result :=
  .next (s.flagThenReg (subFlag (s.reg x) (s.reg y)) x (subByte (s.reg x) (s.reg y))).advance

/-- `SHR Vx` (40 R108): `V[x]` in place, the field `y` is ignored (30 R79). -/
def execShr (x _y : Nibble) (s : State) : Result :=
  .next (s.flagThenReg (shrFlag (s.reg x)) x (shrByte (s.reg x))).advance

/-- `SUBN Vx, Vy` (40 R109): `V[y] - V[x]`. -/
def execSubn (x y : Nibble) (s : State) : Result :=
  .next (s.flagThenReg (subnFlag (s.reg x) (s.reg y)) x (subByte (s.reg y) (s.reg x))).advance

/-- `SHL Vx` (40 R110): `V[x]` in place, the field `y` is ignored (30 R79). -/
def execShl (x _y : Nibble) (s : State) : Result :=
  .next (s.flagThenReg (shlFlag (s.reg x)) x (shlByte (s.reg x))).advance

/-- `RND Vx, nn` (40 R111): the byte drawn for this instruction, masked; the old `V[x]` is not read. The next `RND` draws
anew (10 R39). -/
def execRnd (x : Nibble) (nn : Byte) (s : State) : Result :=
  .next ((s.setReg x (s.drawn &&& nn)).setDraws (s.draws + 1)).advance

end Sys2Proof.Machine
end

