-- ==== Sys2Proof/Machine/Control.lean ====
section
/-! DEFINITION. Skips, jumps, call and return (spec file 41). No general register is written. -/

namespace Sys2Proof.Machine

/-- `SE Vx, nn` (41 R120). -/
def execSeImm (x : Nibble) (nn : Byte) (s : State) : Result := .next (s.skipIf (s.reg x == nn))

/-- `SNE Vx, nn` (41 R121). -/
def execSneImm (x : Nibble) (nn : Byte) (s : State) : Result := .next (s.skipIf (s.reg x != nn))

/-- `SE Vx, Vy` (41 R122). -/
def execSeReg (x y : Nibble) (s : State) : Result := .next (s.skipIf (s.reg x == s.reg y))

/-- `SNE Vx, Vy` (41 R123). -/
def execSneReg (x y : Nibble) (s : State) : Result := .next (s.skipIf (s.reg x != s.reg y))

/-- `JP nnn` (41 R124). -/
def execJp (nnn : Addr12) (s : State) : Result := .next (s.setPc (zextAddr nnn))

/-- `CALL nnn` (41 R125): pushes the address of this instruction; a full stack raises `StackOverflow`. -/
def execCall (nnn : Addr12) (s : State) : Result :=
  s.check (s.push s.pc) fun t => .next (t.setPc (zextAddr nnn))

/-- `JP V0, nnn` (41 R126). -/
def execJpV0 (nnn : Addr12) (s : State) : Result := .next (s.setPc (s.offsetTarget nnn))

/-- `RET` (41 R127): continues after the matching `CALL`; an empty stack raises `StackUnderflow`. -/
def execRet (s : State) : Result :=
  s.check s.pop fun popped => .next (popped.2.setPc (popped.1 + 2))

end Sys2Proof.Machine
end

