-- ==== Sys2Proof/Machine/Graphics.lean ====
section
/-! DEFINITION. The graphics unit (spec file 43): clear, sprite composer, collision, dirty queue. -/

namespace Sys2Proof.Machine

/-- The display index of column `px mod 64`, row `py mod 32`, row-major (10 R32, 43 R164). -/
def cellIndex (px py : Nat) : Fin 2048 := ⟨py % 32 * 64 + px % 64, by omega⟩

/-- The cells one sprite row toggles, columns left to right, bit 7 leftmost (43 R163). -/
def rowCells (x0 y : Nat) (b : Byte) : List (Fin 2048) :=
  (List.range 8).filterMap fun c => if b.getLsbD (7 - c) then some (cellIndex (x0 + c) y) else none

/-- The cells a sprite toggles, rows ascending, in the order they are enqueued (43 R161). -/
def spriteCells (x0 : Nat) : Nat → List Byte → List (Fin 2048)
  | _, [] => []
  | y, b :: bs => rowCells x0 y b ++ spriteCells x0 (y + 1) bs

/-- One toggle: the cell is inverted, and the collision is raised if it was lit (43 R161, R162). -/
def toggleCell (p : Display × Bool) (k : Fin 2048) : Display × Bool :=
  (Display.toggle p.1 k, p.2 || Display.lit p.1 k)

/-- All toggles in order, from a collision reset to 0: the display afterwards and the collision, "only ever raised, never
lowered" (43 R161, R162). -/
def composeCells (disp : Display) (cells : List (Fin 2048)) : Display × Bool :=
  cells.foldl toggleCell (disp, false)

/-- The cells toggled by drawing the sprite bytes at the latched coordinates `V[x]`, `V[y]` (43 R161, R165 (e)). -/
def State.drawnCells (s : State) (x y : Nibble) (rows : List Byte) : List (Fin 2048) :=
  spriteCells (s.reg x).toNat (s.reg y).toNat rows

/-- `CLS` (43 R160). -/
def execCls (s : State) : Result :=
  .next ((s.setScreen Display.clear []).setClrp true).advance

/-- The writes of `DRW` once the cells to toggle are known: `VF`, display, dirty queue, `RDRP` (43 R161). -/
def State.composite (s : State) (cells : List (Fin 2048)) : State :=
  (((s.setReg 15 (flagByte (composeCells s.disp cells).2)).setScreen (composeCells s.disp cells).1
    (s.dq ++ cells)).setRdrp true)

/-- `DRW Vx, Vy, n` (43 R161). -/
def execDrw (x y n : Nibble) (s : State) : Result :=
  s.check (s.readBlock (s.ea 0) n.toNat) fun rows => .next (s.composite (s.drawnCells x y rows)).advance

end Sys2Proof.Machine
end

