-- ==== Sys2Proof/Machine/Index.lean ====
section
/-! DEFINITION. The index register and the memory instructions (spec file 42). `I` is the base and is never changed by a transfer
(42 R146); a range is checked whole before anything is written (20 R59). -/

namespace Sys2Proof.Machine

/-- `LD I, nnn` (42 R140). -/
def execLdI (nnn : Addr12) (s : State) : Result := .next (s.setI (zextAddr nnn)).advance

/-- `ADD I, Vx` (42 R141): the flag is the last write to `VF`, also with `x = 15`. -/
def execAddI (x : Nibble) (s : State) : Result :=
  .next ((s.setReg 15 (flagByte (indexFlag s.i (s.reg x)))).setI (indexSum s.i (s.reg x))).advance

/-- `LD F, Vx` (42 R142): no memory is accessed. -/
def execLdF (x : Nibble) (s : State) : Result := .next (s.setI (s.glyphAddr (s.reg x))).advance

/-- `LD B, Vx` (42 R143). -/
def execLdB (x : Nibble) (s : State) : Result :=
  s.check (s.writeBlock (s.ea 0) (bcdDigits (s.reg x))) fun t => .next t.advance

/-- `LD [I], Vx` (42 R144). -/
def execLdMemVx (x : Nibble) (s : State) : Result :=
  s.check (s.writeBlock (s.ea 0) (s.regsTo x)) fun t => .next t.advance

/-- `LD Vx, [I]` (42 R145). -/
def execLdVxMem (x : Nibble) (s : State) : Result :=
  s.check (s.readBlock (s.ea 0) (x.toNat + 1)) fun bytes => .next (s.setRegs (loadRegsTo s.v x bytes)).advance

end Sys2Proof.Machine
end

