-- ==== Sys2Proof/Machine/TimersKeys.lean ====
section
/-! DEFINITION. The timer and keyboard instructions (spec file 44). None writes `VF` unless `x` names it; none faults. -/

namespace Sys2Proof.Machine

/-- `SKP Vx` (44 R188): plain equality with `KEY`. -/
def execSkp (x : Nibble) (s : State) : Result := .next (s.skipIf (s.reg x == s.keyByte))

/-- `SKNP Vx` (44 R189). -/
def execSknp (x : Nibble) (s : State) : Result := .next (s.skipIf (s.reg x != s.keyByte))

/-- `LD Vx, DT` (44 R182). -/
def execLdVxDt (x : Nibble) (s : State) : Result := .next (s.setReg x s.dt).advance

/-- `LD Vx, K` (44 R185): with no key pressed the core is suspended and `PC` still addresses this instruction. -/
def execLdVxK (x : Nibble) (s : State) : Result :=
  if s.key = 0 then .next (s.setWait true) else .next ((s.setReg x s.keyByte).setWait false).advance

/-- `LD DT, Vx` (44 R183). -/
def execLdDtVx (x : Nibble) (s : State) : Result := .next (s.setDt (s.reg x)).advance

/-- `LD ST, Vx` (44 R187). -/
def execLdStVx (x : Nibble) (s : State) : Result := .next (s.setSt (soundValue (s.reg x))).advance

end Sys2Proof.Machine
end

