-- ==== Sys2Proof/Machine/Cycle.lean ====
section
/-! DEFINITION. The `Step` event: one fetch, decode, execute (30 R70). -/

namespace Sys2Proof.Machine

/-- Steps 4 and 5 of 30 R70: the fetched word's instruction is executed; a word that matches no row is the decode failure, which
reports `PC` and the word and changes nothing (60 R201). -/
def executeWord (w : Word) (s : State) : Result :=
  match decode w with
  | .ok i => exec i s
  | .error _ => .fault (.decodeFailure s.pc w)

/-- `Step` (30 R70) in the order of checks of 60 R207: a core with `FAULTED == 1` reports the recorded fault again and changes
nothing; then the fetch; then decode and execution. -/
def cycle (s : State) : Result :=
  match s.faulted with
  | some r => .fault (.fatal r s)
  | none => s.check s.fetch fun w => executeWord w s

end Sys2Proof.Machine
end

