-- ==== Sys2Proof/Machine/Events.lean ====
section
/-! DEFINITION. The events the outside issues between instructions (00 R13), what they do and what they answer. -/

namespace Sys2Proof.Machine

/-- What an event answers to whoever issued it. -/
inductive Output where
  /-- Nothing. -/
  | silent
  /-- `DrainDirty` answers the whole queue, oldest first (43 R167). -/
  | drained (cells : List (Fin 2048))
  /-- `ReadDisplay(k)` answers the cell (43 R168). -/
  | cell (lit : Bool)
  /-- `LoadProgram` refused an image that does not fit; nothing changed (70 R234). -/
  | loadRefused
  deriving DecidableEq, Repr

/-- The outcome of an event: the next state with the answer, or why there is none. -/
abbrev EventResult := Host.Outcome (State × Output) Fault Refusal

/-- A timer's decrement: by 1 while it is above 0, never past 0 (44 R181). -/
def countDown (b : Byte) : Byte := if b = 0 then 0 else b - 1

/-- `TimerTick` (44 R181): both timers, nothing else; also during a key-wait and while `FAULTED == 1` (60 R206). -/
def timerTick (s : State) : State := (s.setDt (countDown s.dt)).setSt (countDown s.st)

/-- `KeyPress(code)` (44 R186): a code 1 to 16 replaces `KEY`; any other has no defined effect (U14). -/
def keyPress (code : Nat) (s : State) : EventResult :=
  if h : 1 ≤ code ∧ code ≤ 16 then .next (s.setKey ⟨code, by omega⟩, .silent) else .refused (.keyCodeOutOfRange code)

/-- `KeyRelease` (44 R186). -/
def keyRelease (s : State) : State := s.setKey 0

/-- `AckClear` (43 R166). -/
def ackClear (s : State) : State := s.setClrp false

/-- `AckRedraw` (43 R166). -/
def ackRedraw (s : State) : State := s.setRdrp false

/-- `DrainDirty` (43 R167): the queue's content, and the queue empty. -/
def drainDirty (s : State) : State × Output := (s.setScreen s.disp [], .drained s.dq)

/-- `ReadDisplay(k)` (43 R168): no state changes; `k > 2047` has no defined result (U15). -/
def readDisplay (k : Nat) (s : State) : EventResult :=
  if h : k < 2048 then .next (s, .cell (Display.lit s.disp ⟨k, h⟩)) else .refused (.displayIndexOutOfRange k)

/-- `Initialize` (70 R231): every piece of the core's state as 10 R46 tabulates it; `KEY` is not touched. A font that does not fit
breaks the call's precondition (U13). -/
def initialise (startAddress delayValue soundValue indexValue : Nat) (font : List Byte) (s : State) : EventResult :=
  if s.par.fontBase + font.length ≤ Config.memSize then
    .next ({ s with
      mem := Memory.writeBytes Memory.cleared s.par.fontBase font
      v := Vector.replicate 16 0
      i := BitVec.ofNat 16 indexValue
      pc := BitVec.ofNat 16 startAddress
      stk := []
      disp := Display.clear
      dq := []
      clrp := false
      rdrp := false
      dt := BitVec.ofNat 8 delayValue
      st := BitVec.ofNat 8 soundValue
      wait := false
      faulted := none }, .silent)
  else .refused (.fontDoesNotFit font.length)

/-- `LoadProgram` (70 R234): the image into memory, the general registers 0, `WAIT` 0; an image that does not fit is refused
whole and nothing changes. -/
def loadProgram (bytes : List Byte) (startAddress : Nat) (s : State) : State × Output :=
  if startAddress + bytes.length ≤ Config.memSize then
    (((s.setMem (Memory.writeBytes s.mem startAddress bytes)).setRegs (Vector.replicate 16 0)).setWait false, .silent)
  else (s, .loadRefused)

/-- A `Step`'s outcome as an event's: it answers nothing but its reports. -/
def stepEvent (s : State) : EventResult :=
  match cycle s with
  | .next t => .next (t, .silent)
  | .fault f => .fault f
  | .refused r => .refused r

/-- What each event of 00 R13 does. -/
def handle (e : Event) (s : State) : EventResult :=
  match e with
  | .step => stepEvent s
  | .timerTick => .next (timerTick s, .silent)
  | .keyPress code => keyPress code s
  | .keyRelease => .next (keyRelease s, .silent)
  | .ackClear => .next (ackClear s, .silent)
  | .ackRedraw => .next (ackRedraw s, .silent)
  | .drainDirty => .next (drainDirty s)
  | .readDisplay k => readDisplay k s
  | .initialise start delay sound index font => initialise start delay sound index font s
  | .loadProgram bytes start => .next (loadProgram bytes start s)

/-- An event's outcome without its answer. -/
def dropOutput : EventResult → Result
  | .next p => .next p.1
  | .fault f => .fault f
  | .refused r => .refused r

/-- The state the core stands in after an event: faults and refusals end no life of the core, the outside goes on issuing events
(60 R206, R209). -/
def afterEvent (e : Event) (s : State) : State := s.after (dropOutput (handle e s))

/-- The state after a serialized sequence of events (00 R13, 44 R181). -/
def afterEvents : List Event → State → State
  | [], s => s
  | e :: es, s => afterEvents es (afterEvent e s)

/-- Before the first `Initialize` (70 R230): `s` stands for the unspecified power-on state, whatever it is, and no event but
`Initialize` has a defined effect (log entry 15). -/
def handleAtPowerOn (e : Event) (s : State) : EventResult :=
  match e with
  | .initialise start delay sound index font => initialise start delay sound index font s
  | .step | .timerTick | .keyPress _ | .keyRelease | .ackClear | .ackRedraw | .drainDirty | .readDisplay _
  | .loadProgram _ _ => .refused .notInitialised

end Sys2Proof.Machine
end

