-- ==== Sys2Proof/Machine/Fetch.lean ====
section
/-! DEFINITION. Which event the next step is, and an instruction's word laid where the next step fetches. -/

namespace Sys2Proof.Machine

/-- One step of the machine: the next event of the script, or a `Step` when the script is empty (log entry 5). The event is
taken off the script before it happens. -/
def nextEvent (s : State) : Result :=
  match s.script with
  | [] => cycle s
  | e :: es => dropOutput (handle e (s.setScript es))

/-- The address `withFetchWord` uses: `PC` when a word fits there, else `PROG_BASE`. -/
def State.fetchSlot (s : State) : Word := if s.pc.toNat ≤ 4094 then s.pc else BitVec.ofNat 16 Config.progBase

/-- `w` stored where the next step fetches, that step being a `Step` of a core that is not `FAULTED` (log entry 12). -/
def State.placeWord (s : State) (w : Word) : State :=
  { s with
    pc := s.fetchSlot
    mem := Memory.writeBytes s.mem s.fetchSlot.toNat (bytesOfWord w)
    faulted := none
    script := [] }

end Sys2Proof.Machine
end

