-- ==== Sys2Proof/Machine/Scheduler.lean ====
section
/-! DEFINITION. How the outside drives the core: the boot sequence (70 R235) and the reference tick (70 R243). No rule of the core
depends on either; the scheduler and the renderer are outside the core (00 R5). -/

namespace Sys2Proof.Machine

/-- Boot (70 R235): `Initialize` with the default parameters, then `LoadProgram` at the same address. -/
def bootEvents (image : List Byte) : List Event :=
  [ .initialise Config.progBase Config.initDT Config.initST Config.initI Config.fontData,
    .loadProgram image Config.progBase ]

/-- Before each instruction the reference scheduler services the flags: if `CLRP`, render and `AckClear`; if `RDRP`, `DrainDirty`,
render, `AckRedraw` (70 R243, 43 R170). -/
def serviceFlags (s : State) : State :=
  if s.clrp then
    if s.rdrp then ackRedraw (drainDirty (ackClear s)).1 else ackClear s
  else if s.rdrp then ackRedraw (drainDirty s).1 else s

/-- The instruction batch of one tick: `velocity` times, service the flags and execute one `Step` (70 R243). -/
def tickBatch : Nat → State → State
  | 0, s => s
  | k + 1, s => tickBatch k (afterEvent .step (serviceFlags s))

/-- One reference tick: `TimerTick`, then the batch (70 R243, conflict C8). -/
def referenceTick (velocity : Nat) (s : State) : State := tickBatch velocity (timerTick s)

end Sys2Proof.Machine
end

