-- ==== Sys2Proof/Safety.lean ====
section
/-! DEFINITION. The terms claims are stated in: what a frame keeps, what the next step runs, and the machine's invariant. -/

namespace Sys2Proof.Machine

/-- Every general register not in `dest` holds what it held. -/
def RegsKept (s t : State) (dest : List Nibble) : Prop := ∀ r, r ∉ dest → t.reg r = s.reg r

/-- Every byte of memory outside the `n` bytes from `a` reads as before; `n = 0` says so of every byte. -/
def BytesKept (s t : State) (a n : Nat) : Prop :=
  ∀ b, ¬(a ≤ b ∧ b < a + n) → Memory.read t.mem b = Memory.read s.mem b

/-- The frame of a register instruction that is no transfer: `PC` advances by 2, only general registers in `dest` change, every byte of
memory reads as before, and every other piece of state is the same. -/
def RegisterFrame (s t : State) (dest : List Nibble) : Prop :=
  t = { s with v := t.v, pc := s.pc + 2 } ∧ RegsKept s t dest ∧ BytesKept s t 0 0

/-- The frame of a transfer of control: `PC` is `target`, and nothing else changes, no byte of memory among it. -/
def TransferFrame (s t : State) (target : Word) : Prop := t = { s with pc := target } ∧ RegsKept s t [] ∧ BytesKept s t 0 0

/-- The fatal fault `c` of an instruction at `s`: reported with `PC`, and of the state only `FAULTED` changes (60 R206). -/
def FatalAt (s : State) (c : FatalCause) : Result :=
  .fault (.fatal ⟨c, s.pc⟩ { s with faulted := some ⟨c, s.pc⟩ })

/-- The next step of `s` is a `Step` of a core that is not `FAULTED`, and it fetches `w`. -/
structure StepsOn (s : State) (w : Word) : Prop where
  idle : s.script = []
  running : s.faulted = none
  fetched : s.fetch = .ok w

/-- `VF` is written as a side effect by exactly these instructions (10 R45). -/
def writesVf : Instr → Bool
  | .addReg _ _ | .sub _ _ | .shr _ _ | .subn _ _ | .shl _ _ | .addI _ | .drw _ _ _ => true
  | .cls | .ret | .jp _ | .call _ | .seImm _ _ | .sneImm _ _ | .seReg _ _ | .ldImm _ _ | .addImm _ _ | .ldReg _ _
  | .orReg _ _ | .andReg _ _ | .xorReg _ _ | .sneReg _ _ | .ldI _ | .jpV0 _ | .rnd _ _ | .skp _ | .sknp _ | .ldVxDt _
  | .ldVxK _ | .ldDtVx _ | .ldStVx _ | .ldF _ | .ldB _ | .ldMemVx _ | .ldVxMem _ => false

/-- The general register `x` that an instruction names as its destination; `LD Vx, [I]` writes `V[0]` to `V[x]` and so writes
`V[15]` only when `x = 15` (10 R44). -/
def destination : Instr → Option Nibble
  | .ldImm x _ | .addImm x _ | .rnd x _ => some x
  | .ldReg x _ | .orReg x _ | .andReg x _ | .xorReg x _ | .addReg x _ | .sub x _ | .shr x _ | .subn x _ | .shl x _ => some x
  | .ldVxDt x | .ldVxK x | .ldVxMem x => some x
  | .cls | .ret | .jp _ | .call _ | .seImm _ _ | .sneImm _ _ | .seReg _ _ | .sneReg _ _ | .ldI _ | .jpV0 _ | .drw _ _ _
  | .skp _ | .sknp _ | .ldDtVx _ | .ldStVx _ | .addI _ | .ldF _ | .ldB _ | .ldMemVx _ => none

/-- The skips (41 R128): the four of 41 and the two key skips. -/
def isSkip : Instr → Bool
  | .seImm _ _ | .sneImm _ _ | .seReg _ _ | .sneReg _ _ | .skp _ | .sknp _ => true
  | .cls | .ret | .jp _ | .call _ | .ldImm _ _ | .addImm _ _ | .ldReg _ _ | .orReg _ _ | .andReg _ _ | .xorReg _ _
  | .addReg _ _ | .sub _ _ | .shr _ _ | .subn _ _ | .shl _ _ | .ldI _ | .jpV0 _ | .rnd _ _ | .drw _ _ _ | .ldVxDt _
  | .ldVxK _ | .ldDtVx _ | .ldStVx _ | .addI _ | .ldF _ | .ldB _ | .ldMemVx _ | .ldVxMem _ => false

/-- The transfers that write `PC` directly (10 R26, 41 R128). -/
def writesPc : Instr → Bool
  | .ret | .jp _ | .call _ | .jpV0 _ => true
  | .cls | .seImm _ _ | .sneImm _ _ | .seReg _ _ | .ldImm _ _ | .addImm _ _ | .ldReg _ _ | .orReg _ _ | .andReg _ _
  | .xorReg _ _ | .addReg _ _ | .sub _ _ | .shr _ _ | .subn _ _ | .shl _ _ | .sneReg _ _ | .ldI _ | .rnd _ _
  | .drw _ _ _ | .skp _ | .sknp _ | .ldVxDt _ | .ldVxK _ | .ldDtVx _ | .ldStVx _ | .addI _ | .ldF _ | .ldB _
  | .ldMemVx _ | .ldVxMem _ => false

/-- A recorded fault is possible: an address it reports is above 4095 (60 R204). -/
def FatalCause.possible : FatalCause → Prop
  | .stackUnderflow | .stackOverflow => True
  | .addressOutOfRange a => 4095 < a

/-- What holds of the machine at every step: memory is in its canonical form; the stack is no deeper than `STACK_DEPTH` (10 R28);
while `WAIT == 1` the word at `PC` is an `LD Vx, K` (10 R37); a recorded fault is a possible one and was raised at `PC`, which it
keeps (60 R206). -/
structure Inv (s : State) : Prop where
  memory : Memory.wf s.mem
  stack : s.stk.length ≤ s.par.stackDepth
  waiting : s.wait = true → ∃ w x, s.fetch = .ok w ∧ decode w = .ok (.ldVxK x)
  faulted : ∀ r, s.faulted = some r → r.pc = s.pc ∧ r.cause.possible

end Sys2Proof.Machine
end

