-- ==== Sys2Proof/Certificates/Slice0/Obligations.lean ====
section
/-! DEFINITION. The statements for the provers, by the spec's numbered rules. An instruction's statement gives its decoding, says that
`exec` answers a next state (or where it faults), gives every value the rule gives, and its frame. -/

open Sys2Proof Sys2Proof.Machine

/-! ## Encoding (spec file 30) -/

/-- 30 R70, R71, R76: an encoded well-formed instruction decodes to itself, as a word and as bytes, every operand at every value;
decoding takes exactly its two bytes. The patterns are the spec's "from general knowledge" (log entry 9). -/
def Obligations.DecodeAfterEncode : Prop :=
  ∀ i : Instr, i.wf = true →
    decode (encode i) = .ok i ∧ ∀ rest, decodeBytes (encodeBytes i ++ rest) = .ok (i, rest)

/-- 30 R76, R79: a word that decodes is the encoding of what it decodes to: no bit is dropped, the ignored `y` of the shifts
included (log entries 9, 17). -/
def Obligations.EncodeAfterDecode : Prop :=
  ∀ (w : Word) (i : Instr), decode w = .ok i → encode i = w ∧ i.wf = true

/-- 30 R75: "no word matches two rows", which the spec derives from R76 (log entry 9). -/
def Obligations.OpcodeRowsDisjoint : Prop :=
  ∀ (w : Word) (j k : Nat) (r q : Row), opcodeTable[j]? = some r → opcodeTable[k]? = some q →
    r.pattern.holds w = true → q.pattern.holds w = true → j = k

/-- 30 R72: nibble-wise matching is the test `(w & mask) == match`. -/
def Obligations.PatternIsMaskAndMatch : Prop :=
  ∀ (p : Pattern) (w : Word), p.holds w = true ↔ w &&& p.maskWord = p.matchWord

/-- 30 R77: the unmatched words are exactly those of its table, class by class (log entry 9). -/
def Obligations.UnmatchedWordsExactly : Prop :=
  ∀ w : Word, decode w = .error (.unmatched w) ↔
    (w.toNat / 4096 = 0x0 ∧ w.toNat % 4096 ≠ 0x0E0 ∧ w.toNat % 4096 ≠ 0x0EE) ∨
    (w.toNat / 4096 = 0x5 ∧ w.toNat % 16 ≠ 0) ∨
    (w.toNat / 4096 = 0x8 ∧ w.toNat % 16 ∈ [0x8, 0x9, 0xA, 0xB, 0xC, 0xD, 0xF]) ∨
    (w.toNat / 4096 = 0x9 ∧ w.toNat % 16 ≠ 0) ∨
    (w.toNat / 4096 = 0xE ∧ w.toNat % 256 ∉ [0x9E, 0xA1]) ∨
    (w.toNat / 4096 = 0xF ∧ w.toNat % 256 ∉ [0x07, 0x0A, 0x15, 0x18, 0x1E, 0x29, 0x33, 0x55, 0x65])

/-- 30 R76: words written out from the table, one of each spec file, decode to their instructions (log entry 9). -/
def Obligations.WrittenWordsDecode : Prop :=
  decode 0xD7A5 = .ok (.drw 0x7 0xA 0x5) ∧ decode 0x6A3C = .ok (.ldImm 0xA 0x3C) ∧
  decode 0x8015 = .ok (.sub 0x0 0x1) ∧ decode 0x1234 = .ok (.jp 0x234) ∧
  decode 0xF265 = .ok (.ldVxMem 0x2) ∧ decode 0xF30A = .ok (.ldVxK 0x3)

/-! ## The step and the faults (30 R70, 20 R55, spec file 60) -/

/-- 30 R70: when the word at `PC` decodes, the step is `exec` of that instruction. With a script (log entry 5), the event at its
head is what the step does, and a `Step` event runs the instruction. -/
def Obligations.StepRunsDecodedInstruction : Prop :=
  ∀ (s : State) (w : Word) (i : Instr), s.faulted = none → s.fetch = .ok w → decode w = .ok i → i.wf = true →
    (s.script = [] → step s = exec i s) ∧
    (∀ es, s.script = .step :: es → step s = exec i { s with script := es }) ∧
    (∀ e es, s.script = e :: es → step s = dropOutput (handle e { s with script := es }))

/-- 20 R55: the word fetched is `Mem[PC] * 256 + Mem[PC + 1]`, for every `PC` up to 4094, odd ones included. -/
def Obligations.FetchIsBigEndian : Prop :=
  ∀ s : State, s.pc.toNat ≤ 4094 → ∃ w : Word, s.fetch = .ok w ∧
    w.toNat = (Memory.read s.mem s.pc.toNat).toNat * 256 + (Memory.read s.mem (s.pc.toNat + 1)).toNat

/-- 30 R70 step 2, 60 R204, R206: a `PC` above 4094 faults at the fetch, reporting `PC`, or 4096 for `PC == 4095`. The
state the fault carries is the model's form of the spec's decision D16 (log entry 6). -/
def Obligations.FetchOutOfRangeFaults : Prop :=
  ∀ s : State, s.script = [] → s.faulted = none →
    (4095 < s.pc.toNat → step s = FatalAt s (.addressOutOfRange s.pc.toNat)) ∧
    (s.pc.toNat = 4095 → step s = FatalAt s (.addressOutOfRange 4096))

/-- 60 R201: an unmatched word is reported with `PC`, no state changes, and the next `Step` reports the same (the
spec's decision D17, log entry 7). -/
def Obligations.DecodeFailureChangesNothing : Prop :=
  ∀ (s : State) (w : Word), StepsOn s w → decode w = .error (.unmatched w) →
    step s = .fault (.decodeFailure s.pc w) ∧ afterEvent .step s = s

/-- 60 R206: whichever instruction raises a fatal fault, it reports its own `PC` and has no effect but `FAULTED`
(the spec's decision D16, log entry 6). -/
def Obligations.FatalFaultChangesOnlyFaulted : Prop :=
  ∀ (i : Instr) (s t : State) (r : FatalReport), exec i s = .fault (.fatal r t) →
    r.pc = s.pc ∧ t = { s with faulted := some r }

/-- 60 R200, R202 to R204, R207: an instruction answers a next state, or it is a `RET` on an empty stack, a `CALL` on a full one, or
one of the four memory instructions with an address above 4095; nothing else faults and nothing is refused. The state
a fault carries is the model's form of it (log entry 6). -/
def Obligations.InstructionsFaultOnlyAsListed : Prop :=
  ∀ (i : Instr) (s : State),
    (∃ t, exec i s = .next t) ∨
    (i = .ret ∧ s.stk = [] ∧ exec i s = FatalAt s .stackUnderflow) ∨
    (∃ nnn, i = .call nnn ∧ s.par.stackDepth ≤ s.stk.length ∧ exec i s = FatalAt s .stackOverflow) ∨
    (∃ a, 4095 < a ∧ exec i s = FatalAt s (.addressOutOfRange a) ∧
      ((∃ x y n, i = .drw x y n ∧ n ≠ 0 ∧ a = s.i.toNat + n.toNat - 1) ∨
       (∃ x, i = .ldB x ∧ a = s.i.toNat + 2) ∨
       (∃ x, i = .ldMemVx x ∧ a = s.i.toNat + x.toNat) ∨
       (∃ x, i = .ldVxMem x ∧ a = s.i.toNat + x.toNat)))

/-- 10 R38, 60 R206: while `FAULTED == 1` a `Step` reports the recorded fault again and changes nothing (decision D16, log
entry 6). -/
def Obligations.FaultedStepReportsAgain : Prop :=
  ∀ (s : State) (r : FatalReport), s.faulted = some r → s.script = [] →
    step s = .fault (.fatal r s) ∧ afterEvent .step s = s

/-- 10 R38, 60 R209: of all events only `Initialize` clears `FAULTED`, and it does (decision D16, log entry 6). -/
def Obligations.OnlyInitialiseClearsFaulted : Prop :=
  ∀ (s : State) (r : FatalReport), s.faulted = some r →
    (∀ e, (∀ start delay sound index font, e ≠ .initialise start delay sound index font) →
      (afterEvent e s).faulted = some r) ∧
    (∀ start delay sound index font, s.par.fontBase + font.length ≤ 4096 →
      (afterEvent (.initialise start delay sound index font) s).faulted = none)

/-! ## Invariants -/

/-- The invariant `Inv` (20 R50, 10 R28, R37, 60 R206) is kept by every step: by its next state and by the state a fatal fault
leaves. The canonical form of memory is the model's (log entry 8). -/
def Obligations.StepKeepsMachineWellFormed : Prop :=
  ∀ s t : State, Inv s →
    (step s = .next t → Inv t) ∧ (∀ r, step s = .fault (.fatal r t) → Inv t)

/-- The invariant holds at reset, a state of the spec's defaults and the model's choices (log entries 1 to 3). -/
def Obligations.ResetIsWellFormed : Prop := Inv State.reset

/-! ## What no instruction changes, and who changes what (whole-machine rules) -/

/-- 44 R180, 10 R35: "No instruction decrements timers directly": only `LD DT, Vx` changes `DT` and only `LD ST, Vx` changes
`ST`. -/
def Obligations.TimersChangedOnlyByTheirWrites : Prop :=
  ∀ (i : Instr) (s t : State), exec i s = .next t →
    ((∀ x, i ≠ .ldDtVx x) → t.dt = s.dt) ∧ ((∀ x, i ≠ .ldStVx x) → t.st = s.st)

/-- 10 R44, R45: an instruction that is not one of the seven flag writers and does not name `V[15]` as its destination leaves `VF`
alone. -/
def Obligations.FlagWritersAreComplete : Prop :=
  ∀ (i : Instr) (s t : State), exec i s = .next t → writesVf i = false → destination i ≠ some 15 →
    t.reg 15 = s.reg 15

/-- 10 R23: `I` is changed by `LD I, nnn`, `ADD I, Vx` and `LD F, Vx` only; no transfer and no draw moves it. -/
def Obligations.IndexChangedOnlyByIndexInstructions : Prop :=
  ∀ (i : Instr) (s t : State), exec i s = .next t →
    (∀ nnn, i ≠ .ldI nnn) → (∀ x, i ≠ .addI x) → (∀ x, i ≠ .ldF x) → t.i = s.i

/-- 20 R64, 10 R28: primary memory is written by `LD B, Vx` and `LD [I], Vx` only, the stack by `CALL` and `RET` only. -/
def Obligations.MemoryAndStackWriters : Prop :=
  ∀ (i : Instr) (s t : State), exec i s = .next t →
    ((∀ x, i ≠ .ldB x) → (∀ x, i ≠ .ldMemVx x) → t.mem = s.mem) ∧
    ((∀ nnn, i ≠ .call nnn) → i ≠ .ret → t.stk = s.stk)

/-- 10 R32 to R34: the display and the dirty queue are changed by `CLS` and `DRW` only; `CLRP` is changed by `CLS` only and `RDRP` by
`DRW` only, and an instruction only ever sets them. -/
def Obligations.ScreenWriters : Prop :=
  ∀ (i : Instr) (s t : State), exec i s = .next t →
    (i ≠ .cls → (∀ x y n, i ≠ .drw x y n) → t.disp = s.disp ∧ t.dq = s.dq) ∧
    (t.clrp = s.clrp ∨ (i = .cls ∧ t.clrp = true)) ∧
    (t.rdrp = s.rdrp ∨ ((∃ x y n, i = .drw x y n) ∧ t.rdrp = true))

/-- 10 R36, R37, R40: no instruction changes `KEY`, the parameters or a recorded fault; `WAIT` is changed by `LD Vx, K` only. The
model's own fields (log entries 1, 4, 5): the script is kept, and only `RND` draws. -/
def Obligations.InstructionsNeverChangeInputs : Prop :=
  ∀ (i : Instr) (s t : State), exec i s = .next t →
    t.key = s.key ∧ t.par = s.par ∧ t.faulted = s.faulted ∧ t.script = s.script ∧
    ((∀ x, i ≠ .ldVxK x) → t.wait = s.wait) ∧ ((∀ x nn, i ≠ .rnd x nn) → t.draws = s.draws)

/-- 10 R26: every instruction that is no transfer advances `PC` by 2, but for a key-wait with no key pressed, which leaves it; a skip
advances it by 2 or 4. -/
def Obligations.ProgramCounterAdvance : Prop :=
  ∀ (i : Instr) (s t : State), exec i s = .next t → writesPc i = false →
    (isSkip i = true → t.pc = s.pc + 2 ∨ t.pc = s.pc + 4) ∧
    (isSkip i = false → t.pc = s.pc + 2 ∨ ((∃ x, i = .ldVxK x) ∧ s.key = 0 ∧ t.pc = s.pc))

/-! ## Reset and external events (10 R46, R47, spec files 43, 44, 70) -/

/-- 10 R46 with the defaults of 00 R7 (log entry 2) and `KEY`'s value at reset (log entry 3): every piece of state, and memory byte
by byte. -/
def Obligations.ResetValues : Prop :=
  (∀ x, State.reset.reg x = 0) ∧ State.reset.i = 0 ∧ State.reset.pc = 0x200 ∧ State.reset.stk = [] ∧
  (∀ k, Display.lit State.reset.disp k = false) ∧ State.reset.dq = [] ∧ State.reset.clrp = false ∧
  State.reset.rdrp = false ∧ State.reset.dt = 0 ∧ State.reset.st = 0 ∧ State.reset.wait = false ∧
  State.reset.faulted = none ∧ State.reset.key = 0 ∧ State.reset.snd = false ∧
  (∀ a, a < 80 → some (Memory.read State.reset.mem a) = Config.fontData[a]?) ∧
  (∀ a, 80 ≤ a → Memory.read State.reset.mem a = 0)

/-- 70 R231, 10 R46: `Initialize` from any state, with any arguments whose font fits; otherwise it is refused (log entry 14). `KEY` is
not touched. What is zeroed is the spec's reading of its source (decisions D3, D23). -/
def Obligations.InitialiseSetsEverything : Prop :=
  ∀ (s : State) (start delay sound index : Nat) (font : List Byte),
    (s.par.fontBase + font.length ≤ 4096 →
      ∃ t, handle (.initialise start delay sound index font) s = .next (t, .silent) ∧
        (∀ x, t.reg x = 0) ∧ t.i.toNat = index % 65536 ∧ t.pc.toNat = start % 65536 ∧ t.stk = [] ∧
        (∀ a, s.par.fontBase ≤ a → a < s.par.fontBase + font.length →
          some (Memory.read t.mem a) = font[a - s.par.fontBase]?) ∧
        (∀ a, ¬(s.par.fontBase ≤ a ∧ a < s.par.fontBase + font.length) → Memory.read t.mem a = 0) ∧
        (∀ k, Display.lit t.disp k = false) ∧ t.dq = [] ∧ t.clrp = false ∧ t.rdrp = false ∧
        t.dt.toNat = delay % 256 ∧ t.st.toNat = sound % 256 ∧ t.wait = false ∧ t.faulted = none ∧
        t.key = s.key ∧ t.par = s.par ∧ t.draws = s.draws ∧ t.script = s.script) ∧
    (4096 < s.par.fontBase + font.length →
      handle (.initialise start delay sound index font) s = .refused (.fontDoesNotFit font.length))

/-- 70 R231, R235 (log entries 1, 2, 3): `Initialize` with the default arguments, from any state with the default parameters, leaves the
state the model calls reset, but for `KEY` and the model's own counters. -/
def Obligations.InitialiseWithDefaultsIsReset : Prop :=
  ∀ s : State, s.par = Config.Params.default →
    handle (.initialise Config.progBase Config.initDT Config.initST Config.initI Config.fontData) s =
      .next ({ State.reset with key := s.key, draws := s.draws, script := s.script }, .silent)

/-- 70 R234: `LoadProgram` copies the image, zeroes the general registers and `WAIT`, and changes nothing else; an image that does not
fit is refused whole (the spec's decision D24, log entry 14). -/
def Obligations.LoadProgramCopiesImage : Prop :=
  ∀ (s : State) (bytes : List Byte) (start : Nat), Memory.wf s.mem →
    (start + bytes.length ≤ 4096 →
      ∃ t, handle (.loadProgram bytes start) s = .next (t, .silent) ∧
        (∀ j, j < bytes.length → some (Memory.read t.mem (start + j)) = bytes[j]?) ∧
        BytesKept s t start bytes.length ∧ (∀ x, t.reg x = 0) ∧ t.wait = false ∧
        t = { s with mem := t.mem, v := t.v, wait := t.wait }) ∧
    (4096 < start + bytes.length → handle (.loadProgram bytes start) s = .next (s, .loadRefused))

/-- 44 R181, R184: a `TimerTick` takes 1 from each timer that is above 0, never past 0, and changes nothing else; the sound stops
exactly when `ST` reaches 0 (a level output: the spec's decision D19, log entry 16). -/
def Obligations.TimerTickCountsDown : Prop :=
  ∀ s : State, ∃ t, handle .timerTick s = .next (t, .silent) ∧
    (0 < s.dt.toNat → t.dt.toNat = s.dt.toNat - 1) ∧ (s.dt.toNat = 0 → t.dt.toNat = 0) ∧
    (0 < s.st.toNat → t.st.toNat = s.st.toNat - 1) ∧ (s.st.toNat = 0 → t.st.toNat = 0) ∧
    (t.snd = true ↔ 1 < s.st.toNat) ∧ t = { s with dt := t.dt, st := t.st }

/-- 44 R186: a press replaces `KEY`, a release clears it, nothing else changes; a code outside 1 to 16 is refused (log
entry 14). -/
def Obligations.KeyEventsSetKey : Prop :=
  ∀ s : State,
    (∀ code, 1 ≤ code → code ≤ 16 →
      ∃ t, handle (.keyPress code) s = .next (t, .silent) ∧ t.key.val = code ∧ t = { s with key := t.key }) ∧
    (∀ code, code = 0 ∨ 16 < code → handle (.keyPress code) s = .refused (.keyCodeOutOfRange code)) ∧
    handle .keyRelease s = .next ({ s with key := 0 }, .silent)

/-- 43 R166 to R168: the acknowledges clear their flag, `DrainDirty` answers the queue and empties it, `ReadDisplay` answers the cell
and changes nothing; an index above 2047 is refused (log entry 14). -/
def Obligations.RendererEvents : Prop :=
  ∀ s : State,
    handle .ackClear s = .next ({ s with clrp := false }, .silent) ∧
    handle .ackRedraw s = .next ({ s with rdrp := false }, .silent) ∧
    handle .drainDirty s = .next ({ s with dq := [] }, .drained s.dq) ∧
    (∀ k : Fin 2048, handle (.readDisplay k.val) s = .next (s, .cell (Display.lit s.disp k))) ∧
    (∀ k, 2047 < k → handle (.readDisplay k) s = .refused (.displayIndexOutOfRange k))

/-! ## ALU instructions (spec file 40) -/

/-- 40 R100, R102. -/
def Obligations.LoadRegister : Prop :=
  ∀ (x y : Nibble) (nn : Byte),
    decode ((0x6#4 ++ x ++ nn : BitVec 16)) = .ok (.ldImm x nn) ∧
    decode ((0x8#4 ++ x ++ y ++ 0x0#4 : BitVec 16)) = .ok (.ldReg x y) ∧
    ∀ s,
      (∃ t, exec (.ldImm x nn) s = .next t ∧ t.reg x = nn ∧ RegisterFrame s t [x]) ∧
      (∃ t, exec (.ldReg x y) s = .next t ∧ t.reg x = s.reg y ∧ RegisterFrame s t [x])

/-- 40 R101: no carry flag. -/
def Obligations.AddImmediate : Prop :=
  ∀ (x : Nibble) (nn : Byte), decode ((0x7#4 ++ x ++ nn : BitVec 16)) = .ok (.addImm x nn) ∧
    ∀ s, ∃ t, exec (.addImm x nn) s = .next t ∧
      (t.reg x).toNat = ((s.reg x).toNat + nn.toNat) % 256 ∧ RegisterFrame s t [x]

/-- 40 R103 to R105: bit by bit, and no flag. -/
def Obligations.BitwiseFamily : Prop :=
  ∀ x y : Nibble,
    decode ((0x8#4 ++ x ++ y ++ 0x1#4 : BitVec 16)) = .ok (.orReg x y) ∧
    decode ((0x8#4 ++ x ++ y ++ 0x2#4 : BitVec 16)) = .ok (.andReg x y) ∧
    decode ((0x8#4 ++ x ++ y ++ 0x3#4 : BitVec 16)) = .ok (.xorReg x y) ∧
    ∀ s,
      (∃ t, exec (.orReg x y) s = .next t ∧ RegisterFrame s t [x] ∧
        ∀ b, (t.reg x).getLsbD b = ((s.reg x).getLsbD b || (s.reg y).getLsbD b)) ∧
      (∃ t, exec (.andReg x y) s = .next t ∧ RegisterFrame s t [x] ∧
        ∀ b, (t.reg x).getLsbD b = ((s.reg x).getLsbD b && (s.reg y).getLsbD b)) ∧
      (∃ t, exec (.xorReg x y) s = .next t ∧ RegisterFrame s t [x] ∧
        ∀ b, (t.reg x).getLsbD b = ((s.reg x).getLsbD b != (s.reg y).getLsbD b))

/-- 40 R106: the sum, and the carry in `VF` unless `x = 15`, where the sum replaces it. -/
def Obligations.AddWithCarry : Prop :=
  ∀ x y : Nibble, decode ((0x8#4 ++ x ++ y ++ 0x4#4 : BitVec 16)) = .ok (.addReg x y) ∧
    ∀ s, ∃ t, exec (.addReg x y) s = .next t ∧ RegisterFrame s t [x, 15] ∧
      (t.reg x).toNat = ((s.reg x).toNat + (s.reg y).toNat) % 256 ∧
      (x ≠ 15 → (t.reg 15).toNat = if (s.reg x).toNat + (s.reg y).toNat > 255 then 1 else 0)

/-- 40 R107, conflict C4: `VF = 1` exactly when `V[x] > V[y]`, strictly. -/
def Obligations.SubtractSetsNotBorrow : Prop :=
  ∀ x y : Nibble, decode ((0x8#4 ++ x ++ y ++ 0x5#4 : BitVec 16)) = .ok (.sub x y) ∧
    ∀ s, ∃ t, exec (.sub x y) s = .next t ∧ RegisterFrame s t [x, 15] ∧
      ((t.reg x).toNat : Int) = (((s.reg x).toNat : Int) - ((s.reg y).toNat : Int)) % 256 ∧
      (x ≠ 15 → (t.reg 15).toNat = if (s.reg x).toNat > (s.reg y).toNat then 1 else 0)

/-- 40 R109: `VF = 1` exactly when `V[x] <= V[y]`. -/
def Obligations.SubtractReversed : Prop :=
  ∀ x y : Nibble, decode ((0x8#4 ++ x ++ y ++ 0x7#4 : BitVec 16)) = .ok (.subn x y) ∧
    ∀ s, ∃ t, exec (.subn x y) s = .next t ∧ RegisterFrame s t [x, 15] ∧
      ((t.reg x).toNat : Int) = (((s.reg y).toNat : Int) - ((s.reg x).toNat : Int)) % 256 ∧
      (x ≠ 15 → (t.reg 15).toNat = if (s.reg x).toNat ≤ (s.reg y).toNat then 1 else 0)

/-- 40 R108, 30 R79: any `y` decodes to the shift and is not read (the spec's decision D9, log entry 10). -/
def Obligations.ShiftRight : Prop :=
  ∀ x y : Nibble, decode ((0x8#4 ++ x ++ y ++ 0x6#4 : BitVec 16)) = .ok (.shr x y) ∧
    ∀ s, ∃ t, exec (.shr x y) s = .next t ∧ RegisterFrame s t [x, 15] ∧
      (t.reg x).toNat = (s.reg x).toNat / 2 ∧ (x ≠ 15 → (t.reg 15).toNat = (s.reg x).toNat % 2)

/-- 40 R110, 30 R79: any `y` decodes to the shift and is not read (the spec's decision D9, log entry 10). -/
def Obligations.ShiftLeft : Prop :=
  ∀ x y : Nibble, decode ((0x8#4 ++ x ++ y ++ 0xE#4 : BitVec 16)) = .ok (.shl x y) ∧
    ∀ s, ∃ t, exec (.shl x y) s = .next t ∧ RegisterFrame s t [x, 15] ∧
      (t.reg x).toNat = (s.reg x).toNat * 2 % 256 ∧ (x ≠ 15 → (t.reg 15).toNat = (s.reg x).toNat / 128)

/-- 40 R111, 10 R39: the drawn byte masked by `nn`, whichever byte is drawn; the next draw is a new one (the counter is the
model's, log entry 4). -/
def Obligations.RandomMasked : Prop :=
  ∀ (x : Nibble) (nn : Byte), decode ((0xC#4 ++ x ++ nn : BitVec 16)) = .ok (.rnd x nn) ∧
    ∀ s, ∃ t, exec (.rnd x nn) s = .next t ∧ t.reg x = Config.freeByte s.draws &&& nn ∧
      (∀ b, nn.getLsbD b = false → (t.reg x).getLsbD b = false) ∧ RegsKept s t [x] ∧ BytesKept s t 0 0 ∧
      t = { s with v := t.v, draws := s.draws + 1, pc := s.pc + 2 }

/-! ## Skips, jumps, call and return (spec file 41) -/

/-- 41 R120, R121. -/
def Obligations.SkipOnImmediate : Prop :=
  ∀ (x : Nibble) (nn : Byte),
    decode ((0x3#4 ++ x ++ nn : BitVec 16)) = .ok (.seImm x nn) ∧
    decode ((0x4#4 ++ x ++ nn : BitVec 16)) = .ok (.sneImm x nn) ∧
    ∀ s,
      (∃ t, exec (.seImm x nn) s = .next t ∧
        TransferFrame s t (if s.reg x = nn then s.pc + 4 else s.pc + 2)) ∧
      (∃ t, exec (.sneImm x nn) s = .next t ∧
        TransferFrame s t (if s.reg x ≠ nn then s.pc + 4 else s.pc + 2))

/-- 41 R122, R123. -/
def Obligations.SkipOnRegister : Prop :=
  ∀ x y : Nibble,
    decode ((0x5#4 ++ x ++ y ++ 0x0#4 : BitVec 16)) = .ok (.seReg x y) ∧
    decode ((0x9#4 ++ x ++ y ++ 0x0#4 : BitVec 16)) = .ok (.sneReg x y) ∧
    ∀ s,
      (∃ t, exec (.seReg x y) s = .next t ∧
        TransferFrame s t (if s.reg x = s.reg y then s.pc + 4 else s.pc + 2)) ∧
      (∃ t, exec (.sneReg x y) s = .next t ∧
        TransferFrame s t (if s.reg x ≠ s.reg y then s.pc + 4 else s.pc + 2))

/-- 41 R124. -/
def Obligations.JumpGoesToTarget : Prop :=
  ∀ nnn : Addr12, decode ((0x1#4 ++ nnn : BitVec 16)) = .ok (.jp nnn) ∧
    ∀ s, ∃ t, exec (.jp nnn) s = .next t ∧ t.pc.toNat = nnn.toNat ∧ TransferFrame s t t.pc

/-- 41 R126: a 16-bit sum, not reduced to 12 bits; that the offset register is `V[0]` is the spec's decision D10 (log entry 10). -/
def Obligations.JumpAddsOffset : Prop :=
  ∀ nnn : Addr12, decode ((0xB#4 ++ nnn : BitVec 16)) = .ok (.jpV0 nnn) ∧
    ∀ s, ∃ t, exec (.jpV0 nnn) s = .next t ∧ t.pc.toNat = nnn.toNat + (s.reg 0).toNat ∧ TransferFrame s t t.pc

/-- 41 R125, 10 R29: `CALL` pushes its own address and jumps; on a full stack it faults and pushes nothing
(the spec's decisions D4, D5; log entries 1, 6, 10). -/
def Obligations.CallPushesItsAddress : Prop :=
  ∀ nnn : Addr12, decode ((0x2#4 ++ nnn : BitVec 16)) = .ok (.call nnn) ∧
    ∀ s,
      (s.stk.length < s.par.stackDepth →
        ∃ t, exec (.call nnn) s = .next t ∧ t.stk = s.stk ++ [s.pc] ∧ t.pc.toNat = nnn.toNat ∧
          t = { s with stk := t.stk, pc := t.pc } ∧ RegsKept s t [] ∧ BytesKept s t 0 0) ∧
      (s.par.stackDepth ≤ s.stk.length → exec (.call nnn) s = FatalAt s .stackOverflow)

/-- 41 R127, 10 R30: `RET` takes the top entry off and continues 2 after it; on an empty stack it faults (decision
D5; log entries 6, 10). -/
def Obligations.ReturnPopsTheStack : Prop :=
  decode 0x00EE = .ok .ret ∧
    ∀ s,
      (∀ stk a, s.stk = stk ++ [a] →
        ∃ t, exec .ret s = .next t ∧ t.stk = stk ∧ t.pc = a + 2 ∧
          t = { s with stk := t.stk, pc := t.pc } ∧ RegsKept s t [] ∧ BytesKept s t 0 0) ∧
      (s.stk = [] → exec .ret s = FatalAt s .stackUnderflow)

/-- 41 R125, R127, R128: a `CALL`, and a `RET` after it in any state whose stack is the one the `CALL` left, come back to the
instruction after the `CALL` with the caller's stack (decision D5, log entry 10). -/
def Obligations.ReturnUndoesCall : Prop :=
  ∀ (nnn : Addr12) (s : State), s.stk.length < s.par.stackDepth →
    ∃ t, exec (.call nnn) s = .next t ∧
      ∀ u, u.stk = t.stk → exec .ret u = .next { u with stk := s.stk, pc := s.pc + 2 }

/-! ## Index register and memory (spec file 42) -/

/-- 42 R140. -/
def Obligations.LoadIndex : Prop :=
  ∀ nnn : Addr12, decode ((0xA#4 ++ nnn : BitVec 16)) = .ok (.ldI nnn) ∧
    ∀ s, ∃ t, exec (.ldI nnn) s = .next t ∧ t.i.toNat = nnn.toNat ∧
      t = { s with i := t.i, pc := s.pc + 2 } ∧ RegsKept s t [] ∧ BytesKept s t 0 0

/-- 42 R141, conflict C7: the 16-bit sum is kept whole and `VF` says whether it is above 0xFFF, also with `x = 15`. -/
def Obligations.AddToIndex : Prop :=
  ∀ x : Nibble, decode ((0xF#4 ++ x ++ 0x1E#8 : BitVec 16)) = .ok (.addI x) ∧
    ∀ s, ∃ t, exec (.addI x) s = .next t ∧ t.i.toNat = (s.i.toNat + (s.reg x).toNat) % 65536 ∧
      (t.reg 15).toNat = (if (s.i.toNat + (s.reg x).toNat) % 65536 > 0xFFF then 1 else 0) ∧
      t = { s with v := t.v, i := t.i, pc := s.pc + 2 } ∧ RegsKept s t [15] ∧ BytesKept s t 0 0

/-- 42 R142, for every `FONT_BASE` and `GLYPH_BYTES` (log entry 1): all 8 bits of `V[x]` count. The instruction is
the spec's decision D11 (log entry 10). -/
def Obligations.GlyphAddress : Prop :=
  ∀ x : Nibble, decode ((0xF#4 ++ x ++ 0x29#8 : BitVec 16)) = .ok (.ldF x) ∧
    ∀ s, ∃ t, exec (.ldF x) s = .next t ∧
      t.i.toNat = (s.par.fontBase + s.par.glyphBytes * (s.reg x).toNat) % 65536 ∧
      t = { s with i := t.i, pc := s.pc + 2 } ∧ RegsKept s t [] ∧ BytesKept s t 0 0

/-- 42 R143, 20 R59: the three decimal digits, or a fault before any byte is written (decision D16, log entries 6, 10). -/
def Obligations.BcdStore : Prop :=
  ∀ x : Nibble, decode ((0xF#4 ++ x ++ 0x33#8 : BitVec 16)) = .ok (.ldB x) ∧
    ∀ s, Memory.wf s.mem →
      (s.i.toNat + 2 ≤ 4095 →
        ∃ t, exec (.ldB x) s = .next t ∧
          (Memory.read t.mem s.i.toNat).toNat = (s.reg x).toNat / 100 ∧
          (Memory.read t.mem (s.i.toNat + 1)).toNat = (s.reg x).toNat / 10 % 10 ∧
          (Memory.read t.mem (s.i.toNat + 2)).toNat = (s.reg x).toNat % 10 ∧
          t = { s with mem := t.mem, pc := s.pc + 2 } ∧ RegsKept s t [] ∧ BytesKept s t s.i.toNat 3) ∧
      (4095 < s.i.toNat + 2 → exec (.ldB x) s = FatalAt s (.addressOutOfRange (s.i.toNat + 2)))

/-- 42 R144, 20 R59: `V[0]` to `V[x]` to consecutive bytes from `I`, or a fault before any byte is written (decision D16,
log entries 6, 10). -/
def Obligations.BlockStore : Prop :=
  ∀ x : Nibble, decode ((0xF#4 ++ x ++ 0x55#8 : BitVec 16)) = .ok (.ldMemVx x) ∧
    ∀ s, Memory.wf s.mem →
      (s.i.toNat + x.toNat ≤ 4095 →
        ∃ t, exec (.ldMemVx x) s = .next t ∧
          (∀ j : Nibble, j.toNat ≤ x.toNat → Memory.read t.mem (s.i.toNat + j.toNat) = s.reg j) ∧
          t = { s with mem := t.mem, pc := s.pc + 2 } ∧ RegsKept s t [] ∧
          BytesKept s t s.i.toNat (x.toNat + 1)) ∧
      (4095 < s.i.toNat + x.toNat →
        exec (.ldMemVx x) s = FatalAt s (.addressOutOfRange (s.i.toNat + x.toNat)))

/-- 42 R145, 20 R59: `V[0]` to `V[x]` from consecutive bytes at `I`, or a fault before any register is written (decision
D16, log entries 6, 10). -/
def Obligations.BlockLoad : Prop :=
  ∀ x : Nibble, decode ((0xF#4 ++ x ++ 0x65#8 : BitVec 16)) = .ok (.ldVxMem x) ∧
    ∀ s,
      (s.i.toNat + x.toNat ≤ 4095 →
        ∃ t, exec (.ldVxMem x) s = .next t ∧
          (∀ j : Nibble, j.toNat ≤ x.toNat → t.reg j = Memory.read s.mem (s.i.toNat + j.toNat)) ∧
          (∀ j : Nibble, x.toNat < j.toNat → t.reg j = s.reg j) ∧
          t = { s with v := t.v, pc := s.pc + 2 } ∧ BytesKept s t 0 0) ∧
      (4095 < s.i.toNat + x.toNat →
        exec (.ldVxMem x) s = FatalAt s (.addressOutOfRange (s.i.toNat + x.toNat)))

/-- 20 R63: a store is seen by the next fetch: bytes that `LD [I], Vx` stored at the `PC` it leaves are the next word
(the spec's decision D21, log entry 10). -/
def Obligations.StoreIsSeenByFetch : Prop :=
  ∀ (x j k : Nibble) (s t : State), Memory.wf s.mem → exec (.ldMemVx x) s = .next t →
    k.toNat = j.toNat + 1 → k.toNat ≤ x.toNat → s.i.toNat + j.toNat = t.pc.toNat →
      ∃ w : Word, t.fetch = .ok w ∧ w.toNat = (s.reg j).toNat * 256 + (s.reg k).toNat

/-! ## Graphics (spec file 43) -/

/-- 43 R160. -/
def Obligations.ClearScreen : Prop :=
  decode 0x00E0 = .ok .cls ∧
    ∀ s, ∃ t, exec .cls s = .next t ∧ (∀ k, Display.lit t.disp k = false) ∧ t.dq = [] ∧ t.clrp = true ∧
      t = { s with disp := t.disp, dq := t.dq, clrp := t.clrp, pc := s.pc + 2 } ∧ RegsKept s t [] ∧ BytesKept s t 0 0

/-- 43 R161 to R165: the cells `DRW` toggles are, in queue order, those of the 1 bits of the `n` bytes at `I`, rows ascending, bit 7
leftmost, wrapped by 64 and 32; they are pairwise distinct; `VF` is the collision; with the last byte above 4095 it faults and nothing
is written. Bit order and cell numbering are the spec's decision D14 (log entry 10). -/
def Obligations.DrawSprite : Prop :=
  ∀ x y n : Nibble, decode ((0xD#4 ++ x ++ y ++ n : BitVec 16)) = .ok (.drw x y n) ∧
    ∀ s,
      (n = 0 ∨ s.i.toNat + n.toNat - 1 ≤ 4095 →
        ∃ (t : State) (cells : List (Fin 2048)), exec (.drw x y n) s = .next t ∧
          cells.map (fun k => k.val) =
            (List.range n.toNat).flatMap (fun r =>
              ((List.range 8).filter fun c => (Memory.read s.mem (s.i.toNat + r)).getLsbD (7 - c)).map fun c =>
                ((s.reg y).toNat + r) % 32 * 64 + ((s.reg x).toNat + c) % 64) ∧
          cells.Nodup ∧ t.dq = s.dq ++ cells ∧
          (∀ k ∈ cells, Display.lit t.disp k = !Display.lit s.disp k) ∧
          (∀ k, k ∉ cells → Display.lit t.disp k = Display.lit s.disp k) ∧
          (t.reg 15 = 1 ∧ (∃ k ∈ cells, Display.lit s.disp k = true) ∨
            t.reg 15 = 0 ∧ ∀ k ∈ cells, Display.lit s.disp k = false) ∧
          t.rdrp = true ∧
          t = { s with v := t.v, disp := t.disp, dq := t.dq, rdrp := t.rdrp, pc := s.pc + 2 } ∧
          RegsKept s t [15] ∧ BytesKept s t 0 0) ∧
      (n ≠ 0 → 4095 < s.i.toNat + n.toNat - 1 →
        exec (.drw x y n) s = FatalAt s (.addressOutOfRange (s.i.toNat + n.toNat - 1)))

/-- 43 R165 (g): the same sprite drawn twice at the same place restores the display, queues its cells twice, and the second draw
collides if the sprite has a 1 bit and its cells were off before the first; the spec derives this (log entry 10). -/
def Obligations.DrawTwiceRestoresDisplay : Prop :=
  ∀ (x y n : Nibble) (s t : State), x ≠ 15 → y ≠ 15 → exec (.drw x y n) s = .next t →
    ∃ (u : State) (cells : List (Fin 2048)), exec (.drw x y n) t = .next u ∧
      u.disp = s.disp ∧ t.dq = s.dq ++ cells ∧ u.dq = t.dq ++ cells ∧
      (cells ≠ [] → (∀ k ∈ cells, Display.lit s.disp k = false) → t.reg 15 = 0 ∧ u.reg 15 = 1)

/-! ## Timers and keyboard (spec file 44) -/

/-- 44 R182, R183. -/
def Obligations.DelayTimerReadAndWrite : Prop :=
  ∀ x : Nibble,
    decode ((0xF#4 ++ x ++ 0x07#8 : BitVec 16)) = .ok (.ldVxDt x) ∧
    decode ((0xF#4 ++ x ++ 0x15#8 : BitVec 16)) = .ok (.ldDtVx x) ∧
    ∀ s,
      (∃ t, exec (.ldVxDt x) s = .next t ∧ t.reg x = s.dt ∧ RegisterFrame s t [x]) ∧
      (∃ t, exec (.ldDtVx x) s = .next t ∧ t.dt = s.reg x ∧
        t = { s with dt := t.dt, pc := s.pc + 2 } ∧ RegsKept s t [] ∧ BytesKept s t 0 0)

/-- 44 R187, R184: exactly 1 becomes 2; the sound level follows at once (decision D19, log entry 16). -/
def Obligations.SoundTimerWrite : Prop :=
  ∀ x : Nibble, decode ((0xF#4 ++ x ++ 0x18#8 : BitVec 16)) = .ok (.ldStVx x) ∧
    ∀ s, ∃ t, exec (.ldStVx x) s = .next t ∧
      t.st.toNat = (if (s.reg x).toNat = 1 then 2 else (s.reg x).toNat) ∧
      (t.snd = true ↔ (s.reg x).toNat ≠ 0) ∧
      t = { s with st := t.st, pc := s.pc + 2 } ∧ RegsKept s t [] ∧ BytesKept s t 0 0

/-- 44 R188, R189: plain equality of `V[x]` with `KEY`, 0 and 0 included (the spec's decision D12, log entry 10). -/
def Obligations.SkipOnKey : Prop :=
  ∀ x : Nibble,
    decode ((0xE#4 ++ x ++ 0x9E#8 : BitVec 16)) = .ok (.skp x) ∧
    decode ((0xE#4 ++ x ++ 0xA1#8 : BitVec 16)) = .ok (.sknp x) ∧
    ∀ s,
      (∃ t, exec (.skp x) s = .next t ∧
        TransferFrame s t (if (s.reg x).toNat = s.key.val then s.pc + 4 else s.pc + 2)) ∧
      (∃ t, exec (.sknp x) s = .next t ∧
        TransferFrame s t (if (s.reg x).toNat ≠ s.key.val then s.pc + 4 else s.pc + 2))

/-- 44 R185: with no key pressed only `WAIT` is set and `PC` stays; with a key it is loaded, `WAIT` is cleared and `PC` advances
(the level of `KEY` is tested: the spec's decision D13, log entry 10). -/
def Obligations.KeyWait : Prop :=
  ∀ x : Nibble, decode ((0xF#4 ++ x ++ 0x0A#8 : BitVec 16)) = .ok (.ldVxK x) ∧
    ∀ s,
      (s.key.val = 0 → exec (.ldVxK x) s = .next { s with wait := true }) ∧
      (s.key.val ≠ 0 →
        ∃ t, exec (.ldVxK x) s = .next t ∧ (t.reg x).toNat = s.key.val ∧ t.wait = false ∧
          t = { s with v := t.v, wait := t.wait, pc := s.pc + 2 } ∧ RegsKept s t [x] ∧ BytesKept s t 0 0)
end

