-- ==== Sys2Proof/Laws/Decode.lean ====
section
/-! SUPPORT. A word as its four nibbles: the fields of a built word, and a word rebuilt from its fields. -/

namespace Sys2Proof

/-- The fields of a word given nibble by nibble. -/
theorem fieldsOf_nibbles (c x y n : Nibble) :
    fieldsOf (c ++ x ++ y ++ n : BitVec 16) = ⟨c, x, y, n, y ++ n, x ++ y ++ n⟩ := by
  simp only [fieldsOf, Fields.mk.injEq]
  refine ⟨?_, ?_, ?_, ?_, ?_, ?_⟩ <;> apply BitVec.eq_of_getLsbD_eq <;> intro j hj <;>
    simp only [BitVec.getLsbD_extractLsb', BitVec.getLsbD_append] <;> interval_cases j <;> simp

/-- Every word is four nibbles. -/
theorem word_nibbles (w : Word) : ∃ c x y n : Nibble, w = (c ++ x ++ y ++ n : BitVec 16) := by
  refine ⟨w.extractLsb' 12 4, w.extractLsb' 8 4, w.extractLsb' 4 4, w.extractLsb' 0 4, ?_⟩
  apply BitVec.eq_of_getLsbD_eq
  intro j hj
  simp only [BitVec.getLsbD_append, BitVec.getLsbD_extractLsb']
  interval_cases j <;> simp

/-- The fields of a word of format `NNN` (30 R73). -/
theorem fieldsOf_encodeNNN (d : Nibble) (nnn : Addr12) :
    fieldsOf (encodeNNN d nnn) =
      ⟨d, nnn.extractLsb' 8 4, nnn.extractLsb' 4 4, nnn.extractLsb' 0 4, nnn.extractLsb' 0 8, nnn⟩ := by
  simp only [fieldsOf, encodeNNN, Fields.mk.injEq]
  refine ⟨?_, ?_, ?_, ?_, ?_, ?_⟩ <;> apply BitVec.eq_of_getLsbD_eq <;> intro j hj <;>
    simp only [BitVec.getLsbD_extractLsb', BitVec.getLsbD_append] <;> interval_cases j <;> simp

/-- The fields of a word of format `XNN` (30 R73). -/
theorem fieldsOf_encodeXNN (d x : Nibble) (nn : Byte) :
    fieldsOf (encodeXNN d x nn) = ⟨d, x, nn.extractLsb' 4 4, nn.extractLsb' 0 4, nn, x ++ nn⟩ := by
  simp only [fieldsOf, encodeXNN, Fields.mk.injEq]
  refine ⟨?_, ?_, ?_, ?_, ?_, ?_⟩ <;> apply BitVec.eq_of_getLsbD_eq <;> intro j hj <;>
    simp only [BitVec.getLsbD_extractLsb', BitVec.getLsbD_append] <;> interval_cases j <;> simp

/-- The fields of a word of format `XY` or `XYN` (30 R73). -/
theorem fieldsOf_encodeXY (d x y e : Nibble) :
    fieldsOf (encodeXY d x y e) = ⟨d, x, y, e, y ++ e, x ++ y ++ e⟩ := fieldsOf_nibbles d x y e

/-- The fields of a word of format `X` (30 R73). -/
theorem fieldsOf_encodeX (d x : Nibble) (low : Byte) :
    fieldsOf (encodeX d x low) = ⟨d, x, low.extractLsb' 4 4, low.extractLsb' 0 4, low, x ++ low⟩ :=
  fieldsOf_encodeXNN d x low

/-- The two bytes of a word give the word back, high byte first (20 R55). -/
theorem wordOfBytes_bytesOfWord (w : Word) : wordOfBytes (w.extractLsb' 8 8) (w.extractLsb' 0 8) = w := by
  apply BitVec.eq_of_getLsbD_eq
  intro j hj
  simp only [wordOfBytes, BitVec.getLsbD_append, BitVec.getLsbD_extractLsb']
  interval_cases j <;> simp

/-- The value of a word of two bytes (20 R55). -/
theorem toNat_wordOfBytes (hi lo : Byte) : (wordOfBytes hi lo).toNat = hi.toNat * 256 + lo.toNat := by
  have h := lo.isLt
  rw [wordOfBytes, BitVec.toNat_append, ← Nat.shiftLeft_add_eq_or_of_lt h, Nat.shiftLeft_eq]

/-- All `decode` can do: the first matching row's instruction from the word's fields, or the refusal of a word no row matches. -/
theorem decode_cases (w : Word) :
    (∃ r ∈ opcodeTable, r.pattern.holds w = true ∧ decode w = .ok (r.build (fieldsOf w))) ∨
      ((∀ r ∈ opcodeTable, r.pattern.holds w = false) ∧ decode w = .error (.unmatched w)) := by
  unfold decode
  split
  · rename_i r h
    exact .inl ⟨r, List.mem_of_find?_eq_some h, by simpa using List.find?_some h, rfl⟩
  · rename_i h
    exact .inr ⟨by simpa using h, rfl⟩

end Sys2Proof
end

