-- ==== Sys2Proof/Laws/Memory.lean ====
section
/-! SUPPORT. Memory: read after write, every operation keeps the canonical form, and what each block operation can do. -/

namespace Sys2Proof.Machine

@[simp] theorem Memory.read_nil (a : Nat) : Memory.read [] a = Memory.unlisted a := rfl

@[simp] theorem Memory.read_cons (c : Nat) (d : Byte) (m : Memory) (a : Nat) :
    Memory.read ((c, d) :: m) a = if a = c then d else Memory.read m a := rfl

/-- Below the first listed address memory reads as unlisted. -/
theorem Memory.read_of_lt {m : Memory} {a : Nat} (h : ∀ c ∈ m, a < c.1) : Memory.read m a = Memory.unlisted a := by
  induction m with
  | nil => rfl
  | cons c m ih =>
    obtain ⟨c, d⟩ := c
    have hc : a < c := h (c, d) (by simp)
    rw [Memory.read_cons, if_neg (by omega)]
    exact ih fun e he => h e (by simp [he])

theorem Memory.read_entry (a : Nat) (b : Byte) (m : Memory) (x : Nat) (h : Memory.read m a = Memory.unlisted a) :
    Memory.read (Memory.entry a b m) x = if x = a then b else Memory.read m x := by
  by_cases e : b = Memory.unlisted a
  · by_cases hx : x = a
    · subst hx; simp [Memory.entry, e, h]
    · simp [Memory.entry, e, hx]
  · simp [Memory.entry, e]

/-- Reading after a write, on memory in canonical form or not: the written byte there, the old byte elsewhere, as long as no address is
listed out of order. -/
theorem Memory.read_write_sorted {m : Memory} (h : m.Pairwise fun c d => c.1 < d.1) (a : Nat) (b : Byte) (x : Nat) :
    Memory.read (Memory.write m a b) x = if x = a then b else Memory.read m x := by
  induction m with
  | nil => exact Memory.read_entry a b [] x rfl
  | cons c m ih =>
    obtain ⟨c, d⟩ := c
    rw [List.pairwise_cons] at h
    rw [Memory.write]
    split
    · rename_i hac
      refine Memory.read_entry a b _ x (Memory.read_of_lt fun e he => ?_)
      rcases List.mem_cons.1 he with rfl | he
      · exact hac
      · exact lt_trans hac (h.1 e he)
    · split
      · rename_i hac
        subst hac
        rw [Memory.read_entry a b m x (Memory.read_of_lt h.1), Memory.read_cons]
        by_cases hx : x = a <;> simp [hx]
      · rename_i hac hne
        rw [Memory.read_cons, ih h.2, Memory.read_cons]
        by_cases hx : x = c
        · simp [hx, Ne.symm hne]
        · simp [hx]

/-- 20 R52, R53: a read gives the last byte written there; a write changes that one cell. -/
theorem Memory.read_write {m : Memory} (h : Memory.wf m) (a : Nat) (b : Byte) (x : Nat) :
    Memory.read (Memory.write m a b) x = if x = a then b else Memory.read m x :=
  Memory.read_write_sorted h.1 a b x

theorem Memory.mem_entry {a : Nat} {b : Byte} {m : Memory} {c : Host.Cell} (h : c ∈ Memory.entry a b m) :
    (c = (a, b) ∧ b ≠ Memory.unlisted a) ∨ c ∈ m := by
  unfold Memory.entry at h
  split at h
  · exact .inr h
  · rcases List.mem_cons.1 h with h | h
    · exact .inl ⟨h, by assumption⟩
    · exact .inr h

theorem Memory.mem_write {m : Memory} {a : Nat} {b : Byte} {c : Host.Cell} (h : c ∈ Memory.write m a b) :
    (c = (a, b) ∧ b ≠ Memory.unlisted a) ∨ c ∈ m := by
  induction m with
  | nil => exact Memory.mem_entry h
  | cons e m ih =>
    obtain ⟨e, d⟩ := e
    rw [Memory.write] at h
    split at h
    · exact Memory.mem_entry h
    · split at h
      · exact (Memory.mem_entry h).imp id fun h => List.mem_cons_of_mem _ h
      · rcases List.mem_cons.1 h with h | h
        · exact .inr (by simp [h])
        · exact (ih h).imp id fun h => List.mem_cons_of_mem _ h

theorem Memory.sorted_entry {a : Nat} {b : Byte} {m : Memory} (h : m.Pairwise fun c d => c.1 < d.1)
    (ha : ∀ c ∈ m, a < c.1) : (Memory.entry a b m).Pairwise fun c d => c.1 < d.1 := by
  unfold Memory.entry
  split
  · exact h
  · exact List.pairwise_cons.2 ⟨ha, h⟩

theorem Memory.sorted_write {m : Memory} (h : m.Pairwise fun c d => c.1 < d.1) (a : Nat) (b : Byte) :
    (Memory.write m a b).Pairwise fun c d => c.1 < d.1 := by
  induction m with
  | nil => exact Memory.sorted_entry List.Pairwise.nil (by simp)
  | cons e m ih =>
    obtain ⟨e, d⟩ := e
    have h' := List.pairwise_cons.1 h
    rw [Memory.write]
    split
    · rename_i hae
      refine Memory.sorted_entry h fun c hc => ?_
      rcases List.mem_cons.1 hc with rfl | hc
      · exact hae
      · exact lt_trans hae (h'.1 c hc)
    · split
      · rename_i hae
        subst hae
        exact Memory.sorted_entry h'.2 h'.1
      · rename_i hlt hne
        refine List.pairwise_cons.2 ⟨fun c hc => ?_, ih h'.2⟩
        rcases Memory.mem_write hc with ⟨rfl, -⟩ | hc
        · show e < a
          omega
        · exact h'.1 c hc

/-- A write to an address that exists keeps the canonical form. -/
theorem Memory.wf_write {m : Memory} (h : Memory.wf m) {a : Nat} (ha : a < Config.memSize) (b : Byte) :
    Memory.wf (Memory.write m a b) := by
  refine ⟨Memory.sorted_write h.1 a b, fun c hc => ?_⟩
  rcases Memory.mem_write hc with ⟨rfl, hb⟩ | hc
  · exact ⟨ha, hb⟩
  · exact h.2 c hc

theorem Memory.sorted_writeBytes {m : Memory} (h : m.Pairwise fun c d => c.1 < d.1) (a : Nat) (bs : List Byte) :
    (Memory.writeBytes m a bs).Pairwise fun c d => c.1 < d.1 := by
  induction bs generalizing m a with
  | nil => exact h
  | cons b bs ih => exact ih (Memory.sorted_write h a b) (a + 1)

/-- A block write to addresses that exist keeps the canonical form. -/
theorem Memory.wf_writeBytes {m : Memory} (h : Memory.wf m) {a : Nat} {bs : List Byte}
    (ha : a + bs.length ≤ Config.memSize) : Memory.wf (Memory.writeBytes m a bs) := by
  induction bs generalizing m a with
  | nil => exact h
  | cons b bs ih =>
    simp only [List.length_cons] at ha
    exact ih (Memory.wf_write h (by omega) b) (by omega)

/-- Reading after a block write whose addresses are listed in order: the block's byte inside it, the old byte outside. -/
theorem Memory.read_writeBytes_sorted {m : Memory} (h : m.Pairwise fun c d => c.1 < d.1) (a : Nat) (bs : List Byte)
    (x : Nat) :
    Memory.read (Memory.writeBytes m a bs) x =
      if a ≤ x ∧ x < a + bs.length then bs[x - a]?.getD 0 else Memory.read m x := by
  induction bs generalizing m a with
  | nil =>
    rw [Memory.writeBytes, List.length_nil, if_neg (by omega)]
  | cons b bs ih =>
    rw [Memory.writeBytes, ih (Memory.sorted_write h a b), Memory.read_write_sorted h, List.length_cons]
    by_cases hx : x = a
    · subst hx
      rw [if_neg (by omega), if_pos rfl, if_pos (by omega)]
      simp
    · by_cases hin : a ≤ x ∧ x < a + (bs.length + 1)
      · rw [if_pos hin, if_pos (by omega), show x - a = x - (a + 1) + 1 by omega]
        simp
      · rw [if_neg hin, if_neg (by omega), if_neg hx]

/-- 20 R56: the bytes land in ascending order, and nothing else changes. -/
theorem Memory.read_writeBytes {m : Memory} (h : Memory.wf m) (a : Nat) (bs : List Byte) (x : Nat) :
    Memory.read (Memory.writeBytes m a bs) x =
      if a ≤ x ∧ x < a + bs.length then bs[x - a]?.getD 0 else Memory.read m x :=
  Memory.read_writeBytes_sorted h.1 a bs x

@[simp] theorem Memory.length_readBytes (m : Memory) (a n : Nat) : (Memory.readBytes m a n).length = n := by
  simp [Memory.readBytes]

theorem Memory.getElem?_readBytes (m : Memory) (a n j : Nat) (h : j < n) :
    (Memory.readBytes m a n)[j]? = some (Memory.read m (a + j)) := by
  simp [Memory.readBytes, h]

/-- What an unlisted address reads as: the default font's byte below 80, else 0. -/
theorem Memory.unlisted_eq (a : Nat) : Memory.unlisted a = Config.fontData[a]?.getD 0 := by
  simp [Memory.unlisted, Config.fontBase]

theorem Memory.unlisted_high {a : Nat} (h : 80 ≤ a) : Memory.unlisted a = 0 := by
  rw [Memory.unlisted_eq, List.getElem?_eq_none]
  · rfl
  · exact h

theorem Memory.wf_nil : Memory.wf [] := ⟨List.Pairwise.nil, by simp⟩

theorem Memory.wf_cleared : Memory.wf Memory.cleared := by decide +kernel

/-- `clear()` zero-fills (20 R50). -/
theorem Memory.read_cleared (a : Nat) : Memory.read Memory.cleared a = 0 := by
  by_cases h : a < 80
  · exact (by decide +kernel : ∀ a < 80, Memory.read Memory.cleared a = 0) a h
  · have hc : ∀ c ∈ Memory.cleared, c.1 < 80 := by decide +kernel
    have : ∀ m : Memory, (∀ c ∈ m, c.1 < 80) → Memory.read m a = Memory.unlisted a := by
      intro m
      induction m with
      | nil => intro _; rfl
      | cons c m ih =>
        obtain ⟨c, d⟩ := c
        intro hm
        have hc : c < 80 := hm (c, d) (by simp)
        rw [Memory.read_cons, if_neg (by omega)]
        exact ih fun e he => hm e (by simp [he])
    rw [this _ hc, Memory.unlisted_high (by omega)]

/-- The default font written over cleared memory is memory with nothing listed (10 R46 with the defaults of 00 R7). -/
theorem Memory.writeBytes_cleared_default :
    Memory.writeBytes Memory.cleared Config.fontBase Config.fontData = [] := by decide +kernel

/-- All `rangeCheck` can do: pass when the range is empty or ends at or below 4095, else report its highest address (20 R59). -/
theorem rangeCheck_cases (a n : Nat) :
    ((n = 0 ∨ a + n ≤ 4096) ∧ rangeCheck a n = .ok ()) ∨
      (0 < n ∧ 4096 < a + n ∧ rangeCheck a n = .error (.addressOutOfRange (a + n - 1))) := by
  unfold rangeCheck
  split
  · exact .inr ⟨by omega, by omega, rfl⟩
  · exact .inl ⟨by omega, rfl⟩

theorem rangeCheck_ok {a n : Nat} (h : n = 0 ∨ a + n ≤ 4096) : rangeCheck a n = .ok () := by
  unfold rangeCheck
  rw [if_neg (by omega)]

theorem rangeCheck_error {a n : Nat} (h0 : 0 < n) (h : 4096 < a + n) :
    rangeCheck a n = .error (.addressOutOfRange (a + n - 1)) := by
  unfold rangeCheck
  rw [if_pos (by omega)]

/-- All a block read can do. -/
theorem State.readBlock_cases (s : State) (a n : Nat) :
    ((n = 0 ∨ a + n ≤ 4096) ∧ s.readBlock a n = .ok (Memory.readBytes s.mem a n)) ∨
      (0 < n ∧ 4096 < a + n ∧ s.readBlock a n = .error (.addressOutOfRange (a + n - 1))) := by
  rcases rangeCheck_cases a n with ⟨h, e⟩ | ⟨h0, h, e⟩
  · exact .inl ⟨h, by simp only [State.readBlock, e]⟩
  · exact .inr ⟨h0, h, by simp only [State.readBlock, e]⟩

/-- All a block write can do. -/
theorem State.writeBlock_cases (s : State) (a : Nat) (bs : List Byte) :
    ((bs.length = 0 ∨ a + bs.length ≤ 4096) ∧
        s.writeBlock a bs = .ok (s.setMem (Memory.writeBytes s.mem a bs))) ∨
      (0 < bs.length ∧ 4096 < a + bs.length ∧
        s.writeBlock a bs = .error (.addressOutOfRange (a + bs.length - 1))) := by
  rcases rangeCheck_cases a bs.length with ⟨h, e⟩ | ⟨h0, h, e⟩
  · exact .inl ⟨h, by simp only [State.writeBlock, e]⟩
  · exact .inr ⟨h0, h, by simp only [State.writeBlock, e]⟩

end Sys2Proof.Machine
end

