-- ==== Sys2Proof/Laws/State.lean ====
section
/-! SUPPORT. One lemma per field of State per update, true by rfl; what the registers read after each register write. -/

namespace Sys2Proof.Machine

@[simp] theorem State.setReg_v (s : State) (x : Nibble) (b : Byte) : (s.setReg x b).v = s.v.set x.toNat b x.isLt := rfl
@[simp] theorem State.setReg_i (s : State) (x : Nibble) (b : Byte) : (s.setReg x b).i = s.i := rfl
@[simp] theorem State.setReg_pc (s : State) (x : Nibble) (b : Byte) : (s.setReg x b).pc = s.pc := rfl
@[simp] theorem State.setReg_stk (s : State) (x : Nibble) (b : Byte) : (s.setReg x b).stk = s.stk := rfl
@[simp] theorem State.setReg_mem (s : State) (x : Nibble) (b : Byte) : (s.setReg x b).mem = s.mem := rfl
@[simp] theorem State.setReg_disp (s : State) (x : Nibble) (b : Byte) : (s.setReg x b).disp = s.disp := rfl
@[simp] theorem State.setReg_dq (s : State) (x : Nibble) (b : Byte) : (s.setReg x b).dq = s.dq := rfl
@[simp] theorem State.setReg_clrp (s : State) (x : Nibble) (b : Byte) : (s.setReg x b).clrp = s.clrp := rfl
@[simp] theorem State.setReg_rdrp (s : State) (x : Nibble) (b : Byte) : (s.setReg x b).rdrp = s.rdrp := rfl
@[simp] theorem State.setReg_dt (s : State) (x : Nibble) (b : Byte) : (s.setReg x b).dt = s.dt := rfl
@[simp] theorem State.setReg_st (s : State) (x : Nibble) (b : Byte) : (s.setReg x b).st = s.st := rfl
@[simp] theorem State.setReg_key (s : State) (x : Nibble) (b : Byte) : (s.setReg x b).key = s.key := rfl
@[simp] theorem State.setReg_wait (s : State) (x : Nibble) (b : Byte) : (s.setReg x b).wait = s.wait := rfl
@[simp] theorem State.setReg_faulted (s : State) (x : Nibble) (b : Byte) : (s.setReg x b).faulted = s.faulted := rfl
@[simp] theorem State.setReg_par (s : State) (x : Nibble) (b : Byte) : (s.setReg x b).par = s.par := rfl
@[simp] theorem State.setReg_draws (s : State) (x : Nibble) (b : Byte) : (s.setReg x b).draws = s.draws := rfl
@[simp] theorem State.setReg_script (s : State) (x : Nibble) (b : Byte) : (s.setReg x b).script = s.script := rfl

@[simp] theorem State.setRegs_v (s : State) (w : Vector Byte 16) : (s.setRegs w).v = w := rfl
@[simp] theorem State.setRegs_i (s : State) (w : Vector Byte 16) : (s.setRegs w).i = s.i := rfl
@[simp] theorem State.setRegs_pc (s : State) (w : Vector Byte 16) : (s.setRegs w).pc = s.pc := rfl
@[simp] theorem State.setRegs_stk (s : State) (w : Vector Byte 16) : (s.setRegs w).stk = s.stk := rfl
@[simp] theorem State.setRegs_mem (s : State) (w : Vector Byte 16) : (s.setRegs w).mem = s.mem := rfl
@[simp] theorem State.setRegs_disp (s : State) (w : Vector Byte 16) : (s.setRegs w).disp = s.disp := rfl
@[simp] theorem State.setRegs_dq (s : State) (w : Vector Byte 16) : (s.setRegs w).dq = s.dq := rfl
@[simp] theorem State.setRegs_clrp (s : State) (w : Vector Byte 16) : (s.setRegs w).clrp = s.clrp := rfl
@[simp] theorem State.setRegs_rdrp (s : State) (w : Vector Byte 16) : (s.setRegs w).rdrp = s.rdrp := rfl
@[simp] theorem State.setRegs_dt (s : State) (w : Vector Byte 16) : (s.setRegs w).dt = s.dt := rfl
@[simp] theorem State.setRegs_st (s : State) (w : Vector Byte 16) : (s.setRegs w).st = s.st := rfl
@[simp] theorem State.setRegs_key (s : State) (w : Vector Byte 16) : (s.setRegs w).key = s.key := rfl
@[simp] theorem State.setRegs_wait (s : State) (w : Vector Byte 16) : (s.setRegs w).wait = s.wait := rfl
@[simp] theorem State.setRegs_faulted (s : State) (w : Vector Byte 16) : (s.setRegs w).faulted = s.faulted := rfl
@[simp] theorem State.setRegs_par (s : State) (w : Vector Byte 16) : (s.setRegs w).par = s.par := rfl
@[simp] theorem State.setRegs_draws (s : State) (w : Vector Byte 16) : (s.setRegs w).draws = s.draws := rfl
@[simp] theorem State.setRegs_script (s : State) (w : Vector Byte 16) : (s.setRegs w).script = s.script := rfl

@[simp] theorem State.setI_v (s : State) (w : Word) : (s.setI w).v = s.v := rfl
@[simp] theorem State.setI_i (s : State) (w : Word) : (s.setI w).i = w := rfl
@[simp] theorem State.setI_pc (s : State) (w : Word) : (s.setI w).pc = s.pc := rfl
@[simp] theorem State.setI_stk (s : State) (w : Word) : (s.setI w).stk = s.stk := rfl
@[simp] theorem State.setI_mem (s : State) (w : Word) : (s.setI w).mem = s.mem := rfl
@[simp] theorem State.setI_disp (s : State) (w : Word) : (s.setI w).disp = s.disp := rfl
@[simp] theorem State.setI_dq (s : State) (w : Word) : (s.setI w).dq = s.dq := rfl
@[simp] theorem State.setI_clrp (s : State) (w : Word) : (s.setI w).clrp = s.clrp := rfl
@[simp] theorem State.setI_rdrp (s : State) (w : Word) : (s.setI w).rdrp = s.rdrp := rfl
@[simp] theorem State.setI_dt (s : State) (w : Word) : (s.setI w).dt = s.dt := rfl
@[simp] theorem State.setI_st (s : State) (w : Word) : (s.setI w).st = s.st := rfl
@[simp] theorem State.setI_key (s : State) (w : Word) : (s.setI w).key = s.key := rfl
@[simp] theorem State.setI_wait (s : State) (w : Word) : (s.setI w).wait = s.wait := rfl
@[simp] theorem State.setI_faulted (s : State) (w : Word) : (s.setI w).faulted = s.faulted := rfl
@[simp] theorem State.setI_par (s : State) (w : Word) : (s.setI w).par = s.par := rfl
@[simp] theorem State.setI_draws (s : State) (w : Word) : (s.setI w).draws = s.draws := rfl
@[simp] theorem State.setI_script (s : State) (w : Word) : (s.setI w).script = s.script := rfl

@[simp] theorem State.setPc_v (s : State) (w : Word) : (s.setPc w).v = s.v := rfl
@[simp] theorem State.setPc_i (s : State) (w : Word) : (s.setPc w).i = s.i := rfl
@[simp] theorem State.setPc_pc (s : State) (w : Word) : (s.setPc w).pc = w := rfl
@[simp] theorem State.setPc_stk (s : State) (w : Word) : (s.setPc w).stk = s.stk := rfl
@[simp] theorem State.setPc_mem (s : State) (w : Word) : (s.setPc w).mem = s.mem := rfl
@[simp] theorem State.setPc_disp (s : State) (w : Word) : (s.setPc w).disp = s.disp := rfl
@[simp] theorem State.setPc_dq (s : State) (w : Word) : (s.setPc w).dq = s.dq := rfl
@[simp] theorem State.setPc_clrp (s : State) (w : Word) : (s.setPc w).clrp = s.clrp := rfl
@[simp] theorem State.setPc_rdrp (s : State) (w : Word) : (s.setPc w).rdrp = s.rdrp := rfl
@[simp] theorem State.setPc_dt (s : State) (w : Word) : (s.setPc w).dt = s.dt := rfl
@[simp] theorem State.setPc_st (s : State) (w : Word) : (s.setPc w).st = s.st := rfl
@[simp] theorem State.setPc_key (s : State) (w : Word) : (s.setPc w).key = s.key := rfl
@[simp] theorem State.setPc_wait (s : State) (w : Word) : (s.setPc w).wait = s.wait := rfl
@[simp] theorem State.setPc_faulted (s : State) (w : Word) : (s.setPc w).faulted = s.faulted := rfl
@[simp] theorem State.setPc_par (s : State) (w : Word) : (s.setPc w).par = s.par := rfl
@[simp] theorem State.setPc_draws (s : State) (w : Word) : (s.setPc w).draws = s.draws := rfl
@[simp] theorem State.setPc_script (s : State) (w : Word) : (s.setPc w).script = s.script := rfl

@[simp] theorem State.advance_v (s : State) : s.advance.v = s.v := rfl
@[simp] theorem State.advance_i (s : State) : s.advance.i = s.i := rfl
@[simp] theorem State.advance_pc (s : State) : s.advance.pc = s.pc + 2 := rfl
@[simp] theorem State.advance_stk (s : State) : s.advance.stk = s.stk := rfl
@[simp] theorem State.advance_mem (s : State) : s.advance.mem = s.mem := rfl
@[simp] theorem State.advance_disp (s : State) : s.advance.disp = s.disp := rfl
@[simp] theorem State.advance_dq (s : State) : s.advance.dq = s.dq := rfl
@[simp] theorem State.advance_clrp (s : State) : s.advance.clrp = s.clrp := rfl
@[simp] theorem State.advance_rdrp (s : State) : s.advance.rdrp = s.rdrp := rfl
@[simp] theorem State.advance_dt (s : State) : s.advance.dt = s.dt := rfl
@[simp] theorem State.advance_st (s : State) : s.advance.st = s.st := rfl
@[simp] theorem State.advance_key (s : State) : s.advance.key = s.key := rfl
@[simp] theorem State.advance_wait (s : State) : s.advance.wait = s.wait := rfl
@[simp] theorem State.advance_faulted (s : State) : s.advance.faulted = s.faulted := rfl
@[simp] theorem State.advance_par (s : State) : s.advance.par = s.par := rfl
@[simp] theorem State.advance_draws (s : State) : s.advance.draws = s.draws := rfl
@[simp] theorem State.advance_script (s : State) : s.advance.script = s.script := rfl

@[simp] theorem State.skipIf_v (s : State) (c : Bool) : (s.skipIf c).v = s.v := rfl
@[simp] theorem State.skipIf_i (s : State) (c : Bool) : (s.skipIf c).i = s.i := rfl
@[simp] theorem State.skipIf_pc (s : State) (c : Bool) : (s.skipIf c).pc = if c then s.pc + 4 else s.pc + 2 := rfl
@[simp] theorem State.skipIf_stk (s : State) (c : Bool) : (s.skipIf c).stk = s.stk := rfl
@[simp] theorem State.skipIf_mem (s : State) (c : Bool) : (s.skipIf c).mem = s.mem := rfl
@[simp] theorem State.skipIf_disp (s : State) (c : Bool) : (s.skipIf c).disp = s.disp := rfl
@[simp] theorem State.skipIf_dq (s : State) (c : Bool) : (s.skipIf c).dq = s.dq := rfl
@[simp] theorem State.skipIf_clrp (s : State) (c : Bool) : (s.skipIf c).clrp = s.clrp := rfl
@[simp] theorem State.skipIf_rdrp (s : State) (c : Bool) : (s.skipIf c).rdrp = s.rdrp := rfl
@[simp] theorem State.skipIf_dt (s : State) (c : Bool) : (s.skipIf c).dt = s.dt := rfl
@[simp] theorem State.skipIf_st (s : State) (c : Bool) : (s.skipIf c).st = s.st := rfl
@[simp] theorem State.skipIf_key (s : State) (c : Bool) : (s.skipIf c).key = s.key := rfl
@[simp] theorem State.skipIf_wait (s : State) (c : Bool) : (s.skipIf c).wait = s.wait := rfl
@[simp] theorem State.skipIf_faulted (s : State) (c : Bool) : (s.skipIf c).faulted = s.faulted := rfl
@[simp] theorem State.skipIf_par (s : State) (c : Bool) : (s.skipIf c).par = s.par := rfl
@[simp] theorem State.skipIf_draws (s : State) (c : Bool) : (s.skipIf c).draws = s.draws := rfl
@[simp] theorem State.skipIf_script (s : State) (c : Bool) : (s.skipIf c).script = s.script := rfl

@[simp] theorem State.setStk_v (s : State) (l : List Word) : (s.setStk l).v = s.v := rfl
@[simp] theorem State.setStk_i (s : State) (l : List Word) : (s.setStk l).i = s.i := rfl
@[simp] theorem State.setStk_pc (s : State) (l : List Word) : (s.setStk l).pc = s.pc := rfl
@[simp] theorem State.setStk_stk (s : State) (l : List Word) : (s.setStk l).stk = l := rfl
@[simp] theorem State.setStk_mem (s : State) (l : List Word) : (s.setStk l).mem = s.mem := rfl
@[simp] theorem State.setStk_disp (s : State) (l : List Word) : (s.setStk l).disp = s.disp := rfl
@[simp] theorem State.setStk_dq (s : State) (l : List Word) : (s.setStk l).dq = s.dq := rfl
@[simp] theorem State.setStk_clrp (s : State) (l : List Word) : (s.setStk l).clrp = s.clrp := rfl
@[simp] theorem State.setStk_rdrp (s : State) (l : List Word) : (s.setStk l).rdrp = s.rdrp := rfl
@[simp] theorem State.setStk_dt (s : State) (l : List Word) : (s.setStk l).dt = s.dt := rfl
@[simp] theorem State.setStk_st (s : State) (l : List Word) : (s.setStk l).st = s.st := rfl
@[simp] theorem State.setStk_key (s : State) (l : List Word) : (s.setStk l).key = s.key := rfl
@[simp] theorem State.setStk_wait (s : State) (l : List Word) : (s.setStk l).wait = s.wait := rfl
@[simp] theorem State.setStk_faulted (s : State) (l : List Word) : (s.setStk l).faulted = s.faulted := rfl
@[simp] theorem State.setStk_par (s : State) (l : List Word) : (s.setStk l).par = s.par := rfl
@[simp] theorem State.setStk_draws (s : State) (l : List Word) : (s.setStk l).draws = s.draws := rfl
@[simp] theorem State.setStk_script (s : State) (l : List Word) : (s.setStk l).script = s.script := rfl

@[simp] theorem State.setMem_v (s : State) (m : Memory) : (s.setMem m).v = s.v := rfl
@[simp] theorem State.setMem_i (s : State) (m : Memory) : (s.setMem m).i = s.i := rfl
@[simp] theorem State.setMem_pc (s : State) (m : Memory) : (s.setMem m).pc = s.pc := rfl
@[simp] theorem State.setMem_stk (s : State) (m : Memory) : (s.setMem m).stk = s.stk := rfl
@[simp] theorem State.setMem_mem (s : State) (m : Memory) : (s.setMem m).mem = m := rfl
@[simp] theorem State.setMem_disp (s : State) (m : Memory) : (s.setMem m).disp = s.disp := rfl
@[simp] theorem State.setMem_dq (s : State) (m : Memory) : (s.setMem m).dq = s.dq := rfl
@[simp] theorem State.setMem_clrp (s : State) (m : Memory) : (s.setMem m).clrp = s.clrp := rfl
@[simp] theorem State.setMem_rdrp (s : State) (m : Memory) : (s.setMem m).rdrp = s.rdrp := rfl
@[simp] theorem State.setMem_dt (s : State) (m : Memory) : (s.setMem m).dt = s.dt := rfl
@[simp] theorem State.setMem_st (s : State) (m : Memory) : (s.setMem m).st = s.st := rfl
@[simp] theorem State.setMem_key (s : State) (m : Memory) : (s.setMem m).key = s.key := rfl
@[simp] theorem State.setMem_wait (s : State) (m : Memory) : (s.setMem m).wait = s.wait := rfl
@[simp] theorem State.setMem_faulted (s : State) (m : Memory) : (s.setMem m).faulted = s.faulted := rfl
@[simp] theorem State.setMem_par (s : State) (m : Memory) : (s.setMem m).par = s.par := rfl
@[simp] theorem State.setMem_draws (s : State) (m : Memory) : (s.setMem m).draws = s.draws := rfl
@[simp] theorem State.setMem_script (s : State) (m : Memory) : (s.setMem m).script = s.script := rfl

@[simp] theorem State.setScreen_v (s : State) (d : Display) (q : List (Fin 2048)) : (s.setScreen d q).v = s.v := rfl
@[simp] theorem State.setScreen_i (s : State) (d : Display) (q : List (Fin 2048)) : (s.setScreen d q).i = s.i := rfl
@[simp] theorem State.setScreen_pc (s : State) (d : Display) (q : List (Fin 2048)) : (s.setScreen d q).pc = s.pc := rfl
@[simp] theorem State.setScreen_stk (s : State) (d : Display) (q : List (Fin 2048)) : (s.setScreen d q).stk = s.stk := rfl
@[simp] theorem State.setScreen_mem (s : State) (d : Display) (q : List (Fin 2048)) : (s.setScreen d q).mem = s.mem := rfl
@[simp] theorem State.setScreen_disp (s : State) (d : Display) (q : List (Fin 2048)) : (s.setScreen d q).disp = d := rfl
@[simp] theorem State.setScreen_dq (s : State) (d : Display) (q : List (Fin 2048)) : (s.setScreen d q).dq = q := rfl
@[simp] theorem State.setScreen_clrp (s : State) (d : Display) (q : List (Fin 2048)) : (s.setScreen d q).clrp = s.clrp := rfl
@[simp] theorem State.setScreen_rdrp (s : State) (d : Display) (q : List (Fin 2048)) : (s.setScreen d q).rdrp = s.rdrp := rfl
@[simp] theorem State.setScreen_dt (s : State) (d : Display) (q : List (Fin 2048)) : (s.setScreen d q).dt = s.dt := rfl
@[simp] theorem State.setScreen_st (s : State) (d : Display) (q : List (Fin 2048)) : (s.setScreen d q).st = s.st := rfl
@[simp] theorem State.setScreen_key (s : State) (d : Display) (q : List (Fin 2048)) : (s.setScreen d q).key = s.key := rfl
@[simp] theorem State.setScreen_wait (s : State) (d : Display) (q : List (Fin 2048)) : (s.setScreen d q).wait = s.wait := rfl
@[simp] theorem State.setScreen_faulted (s : State) (d : Display) (q : List (Fin 2048)) : (s.setScreen d q).faulted = s.faulted := rfl
@[simp] theorem State.setScreen_par (s : State) (d : Display) (q : List (Fin 2048)) : (s.setScreen d q).par = s.par := rfl
@[simp] theorem State.setScreen_draws (s : State) (d : Display) (q : List (Fin 2048)) : (s.setScreen d q).draws = s.draws := rfl
@[simp] theorem State.setScreen_script (s : State) (d : Display) (q : List (Fin 2048)) : (s.setScreen d q).script = s.script := rfl

@[simp] theorem State.setClrp_v (s : State) (b : Bool) : (s.setClrp b).v = s.v := rfl
@[simp] theorem State.setClrp_i (s : State) (b : Bool) : (s.setClrp b).i = s.i := rfl
@[simp] theorem State.setClrp_pc (s : State) (b : Bool) : (s.setClrp b).pc = s.pc := rfl
@[simp] theorem State.setClrp_stk (s : State) (b : Bool) : (s.setClrp b).stk = s.stk := rfl
@[simp] theorem State.setClrp_mem (s : State) (b : Bool) : (s.setClrp b).mem = s.mem := rfl
@[simp] theorem State.setClrp_disp (s : State) (b : Bool) : (s.setClrp b).disp = s.disp := rfl
@[simp] theorem State.setClrp_dq (s : State) (b : Bool) : (s.setClrp b).dq = s.dq := rfl
@[simp] theorem State.setClrp_clrp (s : State) (b : Bool) : (s.setClrp b).clrp = b := rfl
@[simp] theorem State.setClrp_rdrp (s : State) (b : Bool) : (s.setClrp b).rdrp = s.rdrp := rfl
@[simp] theorem State.setClrp_dt (s : State) (b : Bool) : (s.setClrp b).dt = s.dt := rfl
@[simp] theorem State.setClrp_st (s : State) (b : Bool) : (s.setClrp b).st = s.st := rfl
@[simp] theorem State.setClrp_key (s : State) (b : Bool) : (s.setClrp b).key = s.key := rfl
@[simp] theorem State.setClrp_wait (s : State) (b : Bool) : (s.setClrp b).wait = s.wait := rfl
@[simp] theorem State.setClrp_faulted (s : State) (b : Bool) : (s.setClrp b).faulted = s.faulted := rfl
@[simp] theorem State.setClrp_par (s : State) (b : Bool) : (s.setClrp b).par = s.par := rfl
@[simp] theorem State.setClrp_draws (s : State) (b : Bool) : (s.setClrp b).draws = s.draws := rfl
@[simp] theorem State.setClrp_script (s : State) (b : Bool) : (s.setClrp b).script = s.script := rfl

@[simp] theorem State.setRdrp_v (s : State) (b : Bool) : (s.setRdrp b).v = s.v := rfl
@[simp] theorem State.setRdrp_i (s : State) (b : Bool) : (s.setRdrp b).i = s.i := rfl
@[simp] theorem State.setRdrp_pc (s : State) (b : Bool) : (s.setRdrp b).pc = s.pc := rfl
@[simp] theorem State.setRdrp_stk (s : State) (b : Bool) : (s.setRdrp b).stk = s.stk := rfl
@[simp] theorem State.setRdrp_mem (s : State) (b : Bool) : (s.setRdrp b).mem = s.mem := rfl
@[simp] theorem State.setRdrp_disp (s : State) (b : Bool) : (s.setRdrp b).disp = s.disp := rfl
@[simp] theorem State.setRdrp_dq (s : State) (b : Bool) : (s.setRdrp b).dq = s.dq := rfl
@[simp] theorem State.setRdrp_clrp (s : State) (b : Bool) : (s.setRdrp b).clrp = s.clrp := rfl
@[simp] theorem State.setRdrp_rdrp (s : State) (b : Bool) : (s.setRdrp b).rdrp = b := rfl
@[simp] theorem State.setRdrp_dt (s : State) (b : Bool) : (s.setRdrp b).dt = s.dt := rfl
@[simp] theorem State.setRdrp_st (s : State) (b : Bool) : (s.setRdrp b).st = s.st := rfl
@[simp] theorem State.setRdrp_key (s : State) (b : Bool) : (s.setRdrp b).key = s.key := rfl
@[simp] theorem State.setRdrp_wait (s : State) (b : Bool) : (s.setRdrp b).wait = s.wait := rfl
@[simp] theorem State.setRdrp_faulted (s : State) (b : Bool) : (s.setRdrp b).faulted = s.faulted := rfl
@[simp] theorem State.setRdrp_par (s : State) (b : Bool) : (s.setRdrp b).par = s.par := rfl
@[simp] theorem State.setRdrp_draws (s : State) (b : Bool) : (s.setRdrp b).draws = s.draws := rfl
@[simp] theorem State.setRdrp_script (s : State) (b : Bool) : (s.setRdrp b).script = s.script := rfl

@[simp] theorem State.setDt_v (s : State) (b : Byte) : (s.setDt b).v = s.v := rfl
@[simp] theorem State.setDt_i (s : State) (b : Byte) : (s.setDt b).i = s.i := rfl
@[simp] theorem State.setDt_pc (s : State) (b : Byte) : (s.setDt b).pc = s.pc := rfl
@[simp] theorem State.setDt_stk (s : State) (b : Byte) : (s.setDt b).stk = s.stk := rfl
@[simp] theorem State.setDt_mem (s : State) (b : Byte) : (s.setDt b).mem = s.mem := rfl
@[simp] theorem State.setDt_disp (s : State) (b : Byte) : (s.setDt b).disp = s.disp := rfl
@[simp] theorem State.setDt_dq (s : State) (b : Byte) : (s.setDt b).dq = s.dq := rfl
@[simp] theorem State.setDt_clrp (s : State) (b : Byte) : (s.setDt b).clrp = s.clrp := rfl
@[simp] theorem State.setDt_rdrp (s : State) (b : Byte) : (s.setDt b).rdrp = s.rdrp := rfl
@[simp] theorem State.setDt_dt (s : State) (b : Byte) : (s.setDt b).dt = b := rfl
@[simp] theorem State.setDt_st (s : State) (b : Byte) : (s.setDt b).st = s.st := rfl
@[simp] theorem State.setDt_key (s : State) (b : Byte) : (s.setDt b).key = s.key := rfl
@[simp] theorem State.setDt_wait (s : State) (b : Byte) : (s.setDt b).wait = s.wait := rfl
@[simp] theorem State.setDt_faulted (s : State) (b : Byte) : (s.setDt b).faulted = s.faulted := rfl
@[simp] theorem State.setDt_par (s : State) (b : Byte) : (s.setDt b).par = s.par := rfl
@[simp] theorem State.setDt_draws (s : State) (b : Byte) : (s.setDt b).draws = s.draws := rfl
@[simp] theorem State.setDt_script (s : State) (b : Byte) : (s.setDt b).script = s.script := rfl

@[simp] theorem State.setSt_v (s : State) (b : Byte) : (s.setSt b).v = s.v := rfl
@[simp] theorem State.setSt_i (s : State) (b : Byte) : (s.setSt b).i = s.i := rfl
@[simp] theorem State.setSt_pc (s : State) (b : Byte) : (s.setSt b).pc = s.pc := rfl
@[simp] theorem State.setSt_stk (s : State) (b : Byte) : (s.setSt b).stk = s.stk := rfl
@[simp] theorem State.setSt_mem (s : State) (b : Byte) : (s.setSt b).mem = s.mem := rfl
@[simp] theorem State.setSt_disp (s : State) (b : Byte) : (s.setSt b).disp = s.disp := rfl
@[simp] theorem State.setSt_dq (s : State) (b : Byte) : (s.setSt b).dq = s.dq := rfl
@[simp] theorem State.setSt_clrp (s : State) (b : Byte) : (s.setSt b).clrp = s.clrp := rfl
@[simp] theorem State.setSt_rdrp (s : State) (b : Byte) : (s.setSt b).rdrp = s.rdrp := rfl
@[simp] theorem State.setSt_dt (s : State) (b : Byte) : (s.setSt b).dt = s.dt := rfl
@[simp] theorem State.setSt_st (s : State) (b : Byte) : (s.setSt b).st = b := rfl
@[simp] theorem State.setSt_key (s : State) (b : Byte) : (s.setSt b).key = s.key := rfl
@[simp] theorem State.setSt_wait (s : State) (b : Byte) : (s.setSt b).wait = s.wait := rfl
@[simp] theorem State.setSt_faulted (s : State) (b : Byte) : (s.setSt b).faulted = s.faulted := rfl
@[simp] theorem State.setSt_par (s : State) (b : Byte) : (s.setSt b).par = s.par := rfl
@[simp] theorem State.setSt_draws (s : State) (b : Byte) : (s.setSt b).draws = s.draws := rfl
@[simp] theorem State.setSt_script (s : State) (b : Byte) : (s.setSt b).script = s.script := rfl

@[simp] theorem State.setKey_v (s : State) (k : Fin 17) : (s.setKey k).v = s.v := rfl
@[simp] theorem State.setKey_i (s : State) (k : Fin 17) : (s.setKey k).i = s.i := rfl
@[simp] theorem State.setKey_pc (s : State) (k : Fin 17) : (s.setKey k).pc = s.pc := rfl
@[simp] theorem State.setKey_stk (s : State) (k : Fin 17) : (s.setKey k).stk = s.stk := rfl
@[simp] theorem State.setKey_mem (s : State) (k : Fin 17) : (s.setKey k).mem = s.mem := rfl
@[simp] theorem State.setKey_disp (s : State) (k : Fin 17) : (s.setKey k).disp = s.disp := rfl
@[simp] theorem State.setKey_dq (s : State) (k : Fin 17) : (s.setKey k).dq = s.dq := rfl
@[simp] theorem State.setKey_clrp (s : State) (k : Fin 17) : (s.setKey k).clrp = s.clrp := rfl
@[simp] theorem State.setKey_rdrp (s : State) (k : Fin 17) : (s.setKey k).rdrp = s.rdrp := rfl
@[simp] theorem State.setKey_dt (s : State) (k : Fin 17) : (s.setKey k).dt = s.dt := rfl
@[simp] theorem State.setKey_st (s : State) (k : Fin 17) : (s.setKey k).st = s.st := rfl
@[simp] theorem State.setKey_key (s : State) (k : Fin 17) : (s.setKey k).key = k := rfl
@[simp] theorem State.setKey_wait (s : State) (k : Fin 17) : (s.setKey k).wait = s.wait := rfl
@[simp] theorem State.setKey_faulted (s : State) (k : Fin 17) : (s.setKey k).faulted = s.faulted := rfl
@[simp] theorem State.setKey_par (s : State) (k : Fin 17) : (s.setKey k).par = s.par := rfl
@[simp] theorem State.setKey_draws (s : State) (k : Fin 17) : (s.setKey k).draws = s.draws := rfl
@[simp] theorem State.setKey_script (s : State) (k : Fin 17) : (s.setKey k).script = s.script := rfl

@[simp] theorem State.setWait_v (s : State) (b : Bool) : (s.setWait b).v = s.v := rfl
@[simp] theorem State.setWait_i (s : State) (b : Bool) : (s.setWait b).i = s.i := rfl
@[simp] theorem State.setWait_pc (s : State) (b : Bool) : (s.setWait b).pc = s.pc := rfl
@[simp] theorem State.setWait_stk (s : State) (b : Bool) : (s.setWait b).stk = s.stk := rfl
@[simp] theorem State.setWait_mem (s : State) (b : Bool) : (s.setWait b).mem = s.mem := rfl
@[simp] theorem State.setWait_disp (s : State) (b : Bool) : (s.setWait b).disp = s.disp := rfl
@[simp] theorem State.setWait_dq (s : State) (b : Bool) : (s.setWait b).dq = s.dq := rfl
@[simp] theorem State.setWait_clrp (s : State) (b : Bool) : (s.setWait b).clrp = s.clrp := rfl
@[simp] theorem State.setWait_rdrp (s : State) (b : Bool) : (s.setWait b).rdrp = s.rdrp := rfl
@[simp] theorem State.setWait_dt (s : State) (b : Bool) : (s.setWait b).dt = s.dt := rfl
@[simp] theorem State.setWait_st (s : State) (b : Bool) : (s.setWait b).st = s.st := rfl
@[simp] theorem State.setWait_key (s : State) (b : Bool) : (s.setWait b).key = s.key := rfl
@[simp] theorem State.setWait_wait (s : State) (b : Bool) : (s.setWait b).wait = b := rfl
@[simp] theorem State.setWait_faulted (s : State) (b : Bool) : (s.setWait b).faulted = s.faulted := rfl
@[simp] theorem State.setWait_par (s : State) (b : Bool) : (s.setWait b).par = s.par := rfl
@[simp] theorem State.setWait_draws (s : State) (b : Bool) : (s.setWait b).draws = s.draws := rfl
@[simp] theorem State.setWait_script (s : State) (b : Bool) : (s.setWait b).script = s.script := rfl

@[simp] theorem State.setFaulted_v (s : State) (f : Option FatalReport) : (s.setFaulted f).v = s.v := rfl
@[simp] theorem State.setFaulted_i (s : State) (f : Option FatalReport) : (s.setFaulted f).i = s.i := rfl
@[simp] theorem State.setFaulted_pc (s : State) (f : Option FatalReport) : (s.setFaulted f).pc = s.pc := rfl
@[simp] theorem State.setFaulted_stk (s : State) (f : Option FatalReport) : (s.setFaulted f).stk = s.stk := rfl
@[simp] theorem State.setFaulted_mem (s : State) (f : Option FatalReport) : (s.setFaulted f).mem = s.mem := rfl
@[simp] theorem State.setFaulted_disp (s : State) (f : Option FatalReport) : (s.setFaulted f).disp = s.disp := rfl
@[simp] theorem State.setFaulted_dq (s : State) (f : Option FatalReport) : (s.setFaulted f).dq = s.dq := rfl
@[simp] theorem State.setFaulted_clrp (s : State) (f : Option FatalReport) : (s.setFaulted f).clrp = s.clrp := rfl
@[simp] theorem State.setFaulted_rdrp (s : State) (f : Option FatalReport) : (s.setFaulted f).rdrp = s.rdrp := rfl
@[simp] theorem State.setFaulted_dt (s : State) (f : Option FatalReport) : (s.setFaulted f).dt = s.dt := rfl
@[simp] theorem State.setFaulted_st (s : State) (f : Option FatalReport) : (s.setFaulted f).st = s.st := rfl
@[simp] theorem State.setFaulted_key (s : State) (f : Option FatalReport) : (s.setFaulted f).key = s.key := rfl
@[simp] theorem State.setFaulted_wait (s : State) (f : Option FatalReport) : (s.setFaulted f).wait = s.wait := rfl
@[simp] theorem State.setFaulted_faulted (s : State) (f : Option FatalReport) : (s.setFaulted f).faulted = f := rfl
@[simp] theorem State.setFaulted_par (s : State) (f : Option FatalReport) : (s.setFaulted f).par = s.par := rfl
@[simp] theorem State.setFaulted_draws (s : State) (f : Option FatalReport) : (s.setFaulted f).draws = s.draws := rfl
@[simp] theorem State.setFaulted_script (s : State) (f : Option FatalReport) : (s.setFaulted f).script = s.script := rfl

@[simp] theorem State.setDraws_v (s : State) (n : Nat) : (s.setDraws n).v = s.v := rfl
@[simp] theorem State.setDraws_i (s : State) (n : Nat) : (s.setDraws n).i = s.i := rfl
@[simp] theorem State.setDraws_pc (s : State) (n : Nat) : (s.setDraws n).pc = s.pc := rfl
@[simp] theorem State.setDraws_stk (s : State) (n : Nat) : (s.setDraws n).stk = s.stk := rfl
@[simp] theorem State.setDraws_mem (s : State) (n : Nat) : (s.setDraws n).mem = s.mem := rfl
@[simp] theorem State.setDraws_disp (s : State) (n : Nat) : (s.setDraws n).disp = s.disp := rfl
@[simp] theorem State.setDraws_dq (s : State) (n : Nat) : (s.setDraws n).dq = s.dq := rfl
@[simp] theorem State.setDraws_clrp (s : State) (n : Nat) : (s.setDraws n).clrp = s.clrp := rfl
@[simp] theorem State.setDraws_rdrp (s : State) (n : Nat) : (s.setDraws n).rdrp = s.rdrp := rfl
@[simp] theorem State.setDraws_dt (s : State) (n : Nat) : (s.setDraws n).dt = s.dt := rfl
@[simp] theorem State.setDraws_st (s : State) (n : Nat) : (s.setDraws n).st = s.st := rfl
@[simp] theorem State.setDraws_key (s : State) (n : Nat) : (s.setDraws n).key = s.key := rfl
@[simp] theorem State.setDraws_wait (s : State) (n : Nat) : (s.setDraws n).wait = s.wait := rfl
@[simp] theorem State.setDraws_faulted (s : State) (n : Nat) : (s.setDraws n).faulted = s.faulted := rfl
@[simp] theorem State.setDraws_par (s : State) (n : Nat) : (s.setDraws n).par = s.par := rfl
@[simp] theorem State.setDraws_draws (s : State) (n : Nat) : (s.setDraws n).draws = n := rfl
@[simp] theorem State.setDraws_script (s : State) (n : Nat) : (s.setDraws n).script = s.script := rfl

@[simp] theorem State.setScript_v (s : State) (es : List Event) : (s.setScript es).v = s.v := rfl
@[simp] theorem State.setScript_i (s : State) (es : List Event) : (s.setScript es).i = s.i := rfl
@[simp] theorem State.setScript_pc (s : State) (es : List Event) : (s.setScript es).pc = s.pc := rfl
@[simp] theorem State.setScript_stk (s : State) (es : List Event) : (s.setScript es).stk = s.stk := rfl
@[simp] theorem State.setScript_mem (s : State) (es : List Event) : (s.setScript es).mem = s.mem := rfl
@[simp] theorem State.setScript_disp (s : State) (es : List Event) : (s.setScript es).disp = s.disp := rfl
@[simp] theorem State.setScript_dq (s : State) (es : List Event) : (s.setScript es).dq = s.dq := rfl
@[simp] theorem State.setScript_clrp (s : State) (es : List Event) : (s.setScript es).clrp = s.clrp := rfl
@[simp] theorem State.setScript_rdrp (s : State) (es : List Event) : (s.setScript es).rdrp = s.rdrp := rfl
@[simp] theorem State.setScript_dt (s : State) (es : List Event) : (s.setScript es).dt = s.dt := rfl
@[simp] theorem State.setScript_st (s : State) (es : List Event) : (s.setScript es).st = s.st := rfl
@[simp] theorem State.setScript_key (s : State) (es : List Event) : (s.setScript es).key = s.key := rfl
@[simp] theorem State.setScript_wait (s : State) (es : List Event) : (s.setScript es).wait = s.wait := rfl
@[simp] theorem State.setScript_faulted (s : State) (es : List Event) : (s.setScript es).faulted = s.faulted := rfl
@[simp] theorem State.setScript_par (s : State) (es : List Event) : (s.setScript es).par = s.par := rfl
@[simp] theorem State.setScript_draws (s : State) (es : List Event) : (s.setScript es).draws = s.draws := rfl
@[simp] theorem State.setScript_script (s : State) (es : List Event) : (s.setScript es).script = es := rfl

@[simp] theorem State.flagThenReg_v (s : State) (f : Bool) (x : Nibble) (r : Byte) : (s.flagThenReg f x r).v = (s.v.set 15 (flagByte f)).set x.toNat r x.isLt := rfl
@[simp] theorem State.flagThenReg_i (s : State) (f : Bool) (x : Nibble) (r : Byte) : (s.flagThenReg f x r).i = s.i := rfl
@[simp] theorem State.flagThenReg_pc (s : State) (f : Bool) (x : Nibble) (r : Byte) : (s.flagThenReg f x r).pc = s.pc := rfl
@[simp] theorem State.flagThenReg_stk (s : State) (f : Bool) (x : Nibble) (r : Byte) : (s.flagThenReg f x r).stk = s.stk := rfl
@[simp] theorem State.flagThenReg_mem (s : State) (f : Bool) (x : Nibble) (r : Byte) : (s.flagThenReg f x r).mem = s.mem := rfl
@[simp] theorem State.flagThenReg_disp (s : State) (f : Bool) (x : Nibble) (r : Byte) : (s.flagThenReg f x r).disp = s.disp := rfl
@[simp] theorem State.flagThenReg_dq (s : State) (f : Bool) (x : Nibble) (r : Byte) : (s.flagThenReg f x r).dq = s.dq := rfl
@[simp] theorem State.flagThenReg_clrp (s : State) (f : Bool) (x : Nibble) (r : Byte) : (s.flagThenReg f x r).clrp = s.clrp := rfl
@[simp] theorem State.flagThenReg_rdrp (s : State) (f : Bool) (x : Nibble) (r : Byte) : (s.flagThenReg f x r).rdrp = s.rdrp := rfl
@[simp] theorem State.flagThenReg_dt (s : State) (f : Bool) (x : Nibble) (r : Byte) : (s.flagThenReg f x r).dt = s.dt := rfl
@[simp] theorem State.flagThenReg_st (s : State) (f : Bool) (x : Nibble) (r : Byte) : (s.flagThenReg f x r).st = s.st := rfl
@[simp] theorem State.flagThenReg_key (s : State) (f : Bool) (x : Nibble) (r : Byte) : (s.flagThenReg f x r).key = s.key := rfl
@[simp] theorem State.flagThenReg_wait (s : State) (f : Bool) (x : Nibble) (r : Byte) : (s.flagThenReg f x r).wait = s.wait := rfl
@[simp] theorem State.flagThenReg_faulted (s : State) (f : Bool) (x : Nibble) (r : Byte) : (s.flagThenReg f x r).faulted = s.faulted := rfl
@[simp] theorem State.flagThenReg_par (s : State) (f : Bool) (x : Nibble) (r : Byte) : (s.flagThenReg f x r).par = s.par := rfl
@[simp] theorem State.flagThenReg_draws (s : State) (f : Bool) (x : Nibble) (r : Byte) : (s.flagThenReg f x r).draws = s.draws := rfl
@[simp] theorem State.flagThenReg_script (s : State) (f : Bool) (x : Nibble) (r : Byte) : (s.flagThenReg f x r).script = s.script := rfl

/-- Reading a register after a register write. -/
theorem State.reg_setReg (s : State) (x r : Nibble) (b : Byte) :
    (s.setReg x b).reg r = if r = x then b else s.reg r := by
  simp only [State.reg, State.setReg, Vector.getElem_set]
  simp only [← BitVec.toNat_inj, eq_comm]

@[simp] theorem State.reg_setReg_self (s : State) (x : Nibble) (b : Byte) : (s.setReg x b).reg x = b := by
  simp [State.reg_setReg]

/-- Two states with the same registers read the same. -/
theorem State.reg_congr {s t : State} (h : t.v = s.v) (r : Nibble) : t.reg r = s.reg r := by
  simp [State.reg, h]

@[simp] theorem State.setI_reg (s : State) (w : Word) (r : Nibble) : (s.setI w).reg r = s.reg r := rfl
@[simp] theorem State.setPc_reg (s : State) (w : Word) (r : Nibble) : (s.setPc w).reg r = s.reg r := rfl
@[simp] theorem State.advance_reg (s : State) (r : Nibble) : s.advance.reg r = s.reg r := rfl
@[simp] theorem State.skipIf_reg (s : State) (c : Bool) (r : Nibble) : (s.skipIf c).reg r = s.reg r := rfl
@[simp] theorem State.setStk_reg (s : State) (l : List Word) (r : Nibble) : (s.setStk l).reg r = s.reg r := rfl
@[simp] theorem State.setMem_reg (s : State) (m : Memory) (r : Nibble) : (s.setMem m).reg r = s.reg r := rfl
@[simp] theorem State.setScreen_reg (s : State) (d : Display) (q : List (Fin 2048)) (r : Nibble) : (s.setScreen d q).reg r = s.reg r := rfl
@[simp] theorem State.setClrp_reg (s : State) (b : Bool) (r : Nibble) : (s.setClrp b).reg r = s.reg r := rfl
@[simp] theorem State.setRdrp_reg (s : State) (b : Bool) (r : Nibble) : (s.setRdrp b).reg r = s.reg r := rfl
@[simp] theorem State.setDt_reg (s : State) (b : Byte) (r : Nibble) : (s.setDt b).reg r = s.reg r := rfl
@[simp] theorem State.setSt_reg (s : State) (b : Byte) (r : Nibble) : (s.setSt b).reg r = s.reg r := rfl
@[simp] theorem State.setKey_reg (s : State) (k : Fin 17) (r : Nibble) : (s.setKey k).reg r = s.reg r := rfl
@[simp] theorem State.setWait_reg (s : State) (b : Bool) (r : Nibble) : (s.setWait b).reg r = s.reg r := rfl
@[simp] theorem State.setFaulted_reg (s : State) (f : Option FatalReport) (r : Nibble) : (s.setFaulted f).reg r = s.reg r := rfl
@[simp] theorem State.setDraws_reg (s : State) (n : Nat) (r : Nibble) : (s.setDraws n).reg r = s.reg r := rfl
@[simp] theorem State.setScript_reg (s : State) (es : List Event) (r : Nibble) : (s.setScript es).reg r = s.reg r := rfl

/-- Flag first, destination second: the destination holds the result whatever it is, `VF` the flag unless `x = 15` (00 R11). -/
theorem State.reg_flagThenReg (s : State) (f : Bool) (x r : Nibble) (b : Byte) :
    (s.flagThenReg f x b).reg r = if r = x then b else if r = 15 then flagByte f else s.reg r := by
  simp only [State.flagThenReg, State.reg_setReg]

@[simp] theorem State.setRegs_zero_reg (s : State) (r : Nibble) :
    (s.setRegs (Vector.replicate 16 0#8)).reg r = 0#8 := by
  simp [State.reg, State.setRegs]

@[simp] theorem State.composite_i (s : State) (cells : List (Fin 2048)) : (s.composite cells).i = s.i := rfl
@[simp] theorem State.composite_pc (s : State) (cells : List (Fin 2048)) : (s.composite cells).pc = s.pc := rfl
@[simp] theorem State.composite_stk (s : State) (cells : List (Fin 2048)) : (s.composite cells).stk = s.stk := rfl
@[simp] theorem State.composite_mem (s : State) (cells : List (Fin 2048)) : (s.composite cells).mem = s.mem := rfl
@[simp] theorem State.composite_disp (s : State) (cells : List (Fin 2048)) : (s.composite cells).disp = (composeCells s.disp cells).1 := rfl
@[simp] theorem State.composite_dq (s : State) (cells : List (Fin 2048)) : (s.composite cells).dq = s.dq ++ cells := rfl
@[simp] theorem State.composite_clrp (s : State) (cells : List (Fin 2048)) : (s.composite cells).clrp = s.clrp := rfl
@[simp] theorem State.composite_rdrp (s : State) (cells : List (Fin 2048)) : (s.composite cells).rdrp = true := rfl
@[simp] theorem State.composite_dt (s : State) (cells : List (Fin 2048)) : (s.composite cells).dt = s.dt := rfl
@[simp] theorem State.composite_st (s : State) (cells : List (Fin 2048)) : (s.composite cells).st = s.st := rfl
@[simp] theorem State.composite_key (s : State) (cells : List (Fin 2048)) : (s.composite cells).key = s.key := rfl
@[simp] theorem State.composite_wait (s : State) (cells : List (Fin 2048)) : (s.composite cells).wait = s.wait := rfl
@[simp] theorem State.composite_faulted (s : State) (cells : List (Fin 2048)) : (s.composite cells).faulted = s.faulted := rfl
@[simp] theorem State.composite_par (s : State) (cells : List (Fin 2048)) : (s.composite cells).par = s.par := rfl
@[simp] theorem State.composite_draws (s : State) (cells : List (Fin 2048)) : (s.composite cells).draws = s.draws := rfl
@[simp] theorem State.composite_script (s : State) (cells : List (Fin 2048)) : (s.composite cells).script = s.script := rfl

/-- Of the registers a draw writes `VF` only (43 R161). -/
theorem State.reg_composite (s : State) (cells : List (Fin 2048)) (r : Nibble) :
    (s.composite cells).reg r = if r = 15 then flagByte (composeCells s.disp cells).2 else s.reg r :=
  State.reg_setReg s 15 r _

/-- What the registers read after a block load (42 R145). -/
theorem State.reg_loadRegsTo (s : State) (x j : Nibble) (bytes : List Byte) :
    (s.setRegs (loadRegsTo s.v x bytes)).reg j =
      if j.toNat ≤ x.toNat then bytes[j.toNat]?.getD 0 else s.reg j := by
  simp only [State.reg, State.setRegs_v, loadRegsTo, Vector.getElem_ofFn]
  rfl

/-- The bytes of a block store are the registers' (42 R144). -/
theorem State.getElem?_regsTo (s : State) {x j : Nibble} (h : j.toNat ≤ x.toNat) :
    (s.regsTo x)[j.toNat]? = some (s.reg j) := by
  have := j.isLt
  rw [State.regsTo, List.getElem?_take, if_pos (by omega), Vector.getElem?_toList, State.reg]
  simp [this]

/-- Two register files that read the same at every index are the same. -/
theorem regs_ext {s t : State} (h : ∀ r, t.reg r = s.reg r) : t.v = s.v := by
  apply Vector.ext
  intro j hj
  have := h (BitVec.ofNat 4 j)
  have e : (BitVec.ofNat 4 j).toNat = j := by simp; omega
  simpa only [State.reg, e] using this

end Sys2Proof.Machine
end

