-- ==== Sys2Proof/Laws/Ops.lean ====
section
/-! SUPPORT. One lemma per shared operation that says everything it can do: the checked call, the stack, the fetch, the step. -/

namespace Sys2Proof.Machine

/-! The checked call and the fatal fault. -/

@[simp] theorem State.check_ok {α : Type} (s : State) (a : α) (k : α → Result) : s.check (.ok a) k = k a := rfl

@[simp] theorem State.check_error {α : Type} (s : State) (c : FatalCause) (k : α → Result) :
    s.check (.error c) k = s.raise c := rfl

/-- A fatal fault is never a next state. -/
theorem State.raise_ne_next (s t : State) (c : FatalCause) : s.raise c ≠ .next t := by simp [State.raise]

/-- All a checked call can answer as a next state: the check passed and the rest answered it. -/
theorem State.check_next {α : Type} {s t : State} {r : Except FatalCause α} {k : α → Result}
    (h : s.check r k = .next t) : ∃ a, r = .ok a ∧ k a = .next t := by
  cases r with
  | ok a => exact ⟨a, rfl, h⟩
  | error c => exact absurd h (State.raise_ne_next s t c)

/-- A fatal fault reports the cause with `PC`, and of the state only `FAULTED` differs (60 R206). -/
theorem State.raise_eq (s : State) (c : FatalCause) :
    s.raise c = .fault (.fatal ⟨c, s.pc⟩ { s with faulted := some ⟨c, s.pc⟩ }) := rfl

/-! The call stack. -/

/-- All a push can do (10 R29). -/
theorem State.push_cases (s : State) (w : Word) :
    (s.stk.length < s.par.stackDepth ∧ s.push w = .ok (s.setStk (s.stk ++ [w]))) ∨
      (s.par.stackDepth ≤ s.stk.length ∧ s.push w = .error .stackOverflow) := by
  unfold State.push
  split
  · exact .inl ⟨by assumption, rfl⟩
  · exact .inr ⟨by omega, rfl⟩

/-- A pop of a stack with a top entry (10 R30). -/
theorem State.pop_concat {s : State} {stk : List Word} {w : Word} (h : s.stk = stk ++ [w]) :
    s.pop = .ok (w, s.setStk stk) := by
  simp [State.pop, h]

/-- A pop of an empty stack (10 R30). -/
theorem State.pop_nil {s : State} (h : s.stk = []) : s.pop = .error .stackUnderflow := by
  simp [State.pop, h]

/-- All a pop can do (10 R30). -/
theorem State.pop_cases (s : State) :
    (∃ stk w, s.stk = stk ++ [w] ∧ s.pop = .ok (w, s.setStk stk)) ∨
      (s.stk = [] ∧ s.pop = .error .stackUnderflow) := by
  rcases List.eq_nil_or_concat s.stk with h | ⟨stk, w, h⟩
  · exact .inr ⟨h, State.pop_nil h⟩
  · exact .inl ⟨stk, w, by simpa using h, State.pop_concat (by simpa using h)⟩

/-! The fetch. -/

/-- All a fetch can do (30 R70 step 2, 60 R204). -/
theorem State.fetch_cases (s : State) :
    (s.pc.toNat ≤ 4094 ∧
        s.fetch = .ok (wordOfBytes (Memory.read s.mem s.pc.toNat) (Memory.read s.mem (s.pc.toNat + 1)))) ∨
      (s.pc.toNat = 4095 ∧ s.fetch = .error (.addressOutOfRange 4096)) ∨
      (4095 < s.pc.toNat ∧ s.fetch = .error (.addressOutOfRange s.pc.toNat)) := by
  by_cases h1 : s.pc.toNat ≤ 4094
  · refine .inl ⟨h1, ?_⟩
    simp only [State.fetch, State.memRead, if_neg (show ¬4095 < s.pc.toNat by omega),
      if_neg (show ¬4095 < s.pc.toNat + 1 by omega)]
  · by_cases h2 : s.pc.toNat = 4095
    · refine .inr (.inl ⟨h2, ?_⟩)
      simp [State.fetch, State.memRead, h2]
    · refine .inr (.inr ⟨by omega, ?_⟩)
      simp only [State.fetch, State.memRead, if_pos (show 4095 < s.pc.toNat by omega)]

/-- The fetch looks at `PC` and at memory only. -/
theorem State.fetch_congr {s t : State} (hp : t.pc = s.pc) (hm : t.mem = s.mem) : t.fetch = s.fetch := by
  simp [State.fetch, State.memRead, hp, hm]

/-- A fetch answers one of two things, a cause only above 4095. -/
theorem State.fetch_error {s : State} {c : FatalCause} (h : s.fetch = .error c) :
    ∃ a, c = .addressOutOfRange a ∧ 4095 < a := by
  rcases s.fetch_cases with ⟨-, e⟩ | ⟨-, e⟩ | ⟨hp, e⟩ <;> rw [h] at e
  · cases e
  · exact ⟨4096, by simpa using e, by omega⟩
  · exact ⟨s.pc.toNat, by simpa using e, hp⟩

/-! The step. -/

/-- All a `Step` can do (30 R70, 60 R207): report the recorded fault; fault at the fetch; report a decode failure; execute. -/
theorem cycle_cases (s : State) :
    (∃ r, s.faulted = some r ∧ cycle s = .fault (.fatal r s)) ∨
      (s.faulted = none ∧ ∃ c, s.fetch = .error c ∧ cycle s = s.raise c) ∨
      (s.faulted = none ∧ ∃ w, s.fetch = .ok w ∧ decode w = .error (.unmatched w) ∧
        cycle s = .fault (.decodeFailure s.pc w)) ∨
      (s.faulted = none ∧ ∃ w i, s.fetch = .ok w ∧ decode w = .ok i ∧ cycle s = exec i s) := by
  cases hf : s.faulted with
  | some r => exact .inl ⟨r, rfl, by simp only [cycle, hf]⟩
  | none =>
    refine .inr ?_
    cases he : s.fetch with
    | error c => exact .inl ⟨rfl, c, rfl, by simp only [cycle, hf, he, State.check_error]⟩
    | ok w =>
      refine .inr ?_
      rcases decode_cases w with ⟨r, -, -, hd⟩ | ⟨-, hd⟩
      · exact .inr ⟨rfl, w, _, rfl, hd, by simp only [cycle, hf, he, State.check_ok, executeWord, hd]⟩
      · exact .inl ⟨rfl, w, rfl, hd, by simp only [cycle, hf, he, State.check_ok, executeWord, hd]⟩

/-- With no event waiting the step is a `Step`. -/
theorem step_of_idle {s : State} (h : s.script = []) : step s = cycle s := by simp only [step, nextEvent, h]

/-- With an event waiting the step is that event, off the script. -/
theorem step_of_event {s : State} {e : Event} {es : List Event} (h : s.script = e :: es) :
    step s = dropOutput (handle e (s.setScript es)) := by simp only [step, nextEvent, h]

/-- A `Step` as an event answers what the cycle answers. -/
@[simp] theorem dropOutput_stepEvent (s : State) : dropOutput (stepEvent s) = cycle s := by
  unfold stepEvent
  cases cycle s <;> rfl

end Sys2Proof.Machine
end

