-- ==== Sys2Proof/Laws/Exec.lean ====
section
/-! SUPPORT. Everything the instructions that check something, or choose, can do: one lemma each; every other instruction's arm is a
next state by rfl. -/

namespace Sys2Proof.Machine

@[simp] theorem State.length_regsTo (s : State) (x : Nibble) : (s.regsTo x).length = x.toNat + 1 := by
  have := x.isLt
  simp [State.regsTo]
  omega

@[simp] theorem length_bcdDigits (b : Byte) : (bcdDigits b).length = 3 := rfl

theorem execCall_cases (nnn : Addr12) (s : State) :
    (s.stk.length < s.par.stackDepth ∧
        execCall nnn s = .next ((s.setStk (s.stk ++ [s.pc])).setPc (zextAddr nnn))) ∨
      (s.par.stackDepth ≤ s.stk.length ∧ execCall nnn s = s.raise .stackOverflow) := by
  rcases s.push_cases s.pc with ⟨h, e⟩ | ⟨h, e⟩
  · exact .inl ⟨h, by simp only [execCall, e, State.check_ok]⟩
  · exact .inr ⟨h, by simp only [execCall, e, State.check_error]⟩

theorem execRet_cases (s : State) :
    (∃ stk w, s.stk = stk ++ [w] ∧ execRet s = .next ((s.setStk stk).setPc (w + 2))) ∨
      (s.stk = [] ∧ execRet s = s.raise .stackUnderflow) := by
  rcases s.pop_cases with ⟨stk, w, h, e⟩ | ⟨h, e⟩
  · exact .inl ⟨stk, w, h, by simp only [execRet, e, State.check_ok]⟩
  · exact .inr ⟨h, by simp only [execRet, e, State.check_error]⟩

theorem execLdB_cases (x : Nibble) (s : State) :
    (s.i.toNat + 2 ≤ 4095 ∧
        execLdB x s = .next (s.setMem (Memory.writeBytes s.mem s.i.toNat (bcdDigits (s.reg x)))).advance) ∨
      (4095 < s.i.toNat + 2 ∧ execLdB x s = s.raise (.addressOutOfRange (s.i.toNat + 2))) := by
  rcases s.writeBlock_cases (s.ea 0) (bcdDigits (s.reg x)) with ⟨h, e⟩ | ⟨-, h, e⟩ <;>
    simp only [length_bcdDigits, State.ea, Nat.add_zero] at h e
  · exact .inl ⟨by omega, by simp only [execLdB, State.ea, Nat.add_zero, e, State.check_ok]⟩
  · exact .inr ⟨by omega, by simp only [execLdB, State.ea, Nat.add_zero, e, State.check_error]; rfl⟩

theorem execLdMemVx_cases (x : Nibble) (s : State) :
    (s.i.toNat + x.toNat ≤ 4095 ∧
        execLdMemVx x s = .next (s.setMem (Memory.writeBytes s.mem s.i.toNat (s.regsTo x))).advance) ∨
      (4095 < s.i.toNat + x.toNat ∧ execLdMemVx x s = s.raise (.addressOutOfRange (s.i.toNat + x.toNat))) := by
  rcases s.writeBlock_cases (s.ea 0) (s.regsTo x) with ⟨h, e⟩ | ⟨-, h, e⟩ <;>
    simp only [State.length_regsTo, State.ea, Nat.add_zero] at h e
  · exact .inl ⟨by omega, by simp only [execLdMemVx, State.ea, Nat.add_zero, e, State.check_ok]⟩
  · exact .inr ⟨by omega, by simp only [execLdMemVx, State.ea, Nat.add_zero, e, State.check_error]; rfl⟩

theorem execLdVxMem_cases (x : Nibble) (s : State) :
    (s.i.toNat + x.toNat ≤ 4095 ∧
        execLdVxMem x s =
          .next (s.setRegs (loadRegsTo s.v x (Memory.readBytes s.mem s.i.toNat (x.toNat + 1)))).advance) ∨
      (4095 < s.i.toNat + x.toNat ∧ execLdVxMem x s = s.raise (.addressOutOfRange (s.i.toNat + x.toNat))) := by
  rcases s.readBlock_cases (s.ea 0) (x.toNat + 1) with ⟨h, e⟩ | ⟨-, h, e⟩ <;>
    simp only [State.ea, Nat.add_zero] at h e
  · exact .inl ⟨by omega, by simp only [execLdVxMem, State.ea, Nat.add_zero, e, State.check_ok]⟩
  · exact .inr ⟨by omega, by simp only [execLdVxMem, State.ea, Nat.add_zero, e, State.check_error]; rfl⟩

theorem execDrw_cases (x y n : Nibble) (s : State) :
    ((n.toNat = 0 ∨ s.i.toNat + n.toNat - 1 ≤ 4095) ∧
        execDrw x y n s =
          .next (s.composite (s.drawnCells x y (Memory.readBytes s.mem s.i.toNat n.toNat))).advance) ∨
      (0 < n.toNat ∧ 4095 < s.i.toNat + n.toNat - 1 ∧
        execDrw x y n s = s.raise (.addressOutOfRange (s.i.toNat + n.toNat - 1))) := by
  rcases s.readBlock_cases (s.ea 0) n.toNat with ⟨h, e⟩ | ⟨h0, h, e⟩ <;>
    simp only [State.ea, Nat.add_zero] at h e
  · exact .inl ⟨by omega, by simp only [execDrw, State.ea, Nat.add_zero, e, State.check_ok]⟩
  · exact .inr ⟨h0, by omega, by simp only [execDrw, State.ea, Nat.add_zero, e, State.check_error]⟩

theorem execLdVxK_cases (x : Nibble) (s : State) :
    (s.key = 0 ∧ execLdVxK x s = .next (s.setWait true)) ∨
      (s.key ≠ 0 ∧ execLdVxK x s = .next ((s.setReg x s.keyByte).setWait false).advance) := by
  by_cases h : s.key = 0
  · exact .inl ⟨h, by simp only [execLdVxK, h, if_true]⟩
  · exact .inr ⟨h, by simp only [execLdVxK, h, if_false]⟩

end Sys2Proof.Machine
end

