-- ==== Sys2Proof/Laws/PerInstr.lean ====
section
/-! SUPPORT. A statement about every instruction as syntax: its encoding matches its own row of the opcode table. -/

namespace Sys2Proof.Laws.EncodedRow

/-- The instruction's row in 30 R76, counted from 0. -/
def rowIndex : Instr → Nat
  | .cls => 0
  | .ret => 1
  | .jp _ => 2
  | .call _ => 3
  | .seImm _ _ => 4
  | .sneImm _ _ => 5
  | .seReg _ _ => 6
  | .ldImm _ _ => 7
  | .addImm _ _ => 8
  | .ldReg _ _ => 9
  | .orReg _ _ => 10
  | .andReg _ _ => 11
  | .xorReg _ _ => 12
  | .addReg _ _ => 13
  | .sub _ _ => 14
  | .shr _ _ => 15
  | .subn _ _ => 16
  | .shl _ _ => 17
  | .sneReg _ _ => 18
  | .ldI _ => 19
  | .jpV0 _ => 20
  | .rnd _ _ => 21
  | .drw _ _ _ => 22
  | .skp _ => 23
  | .sknp _ => 24
  | .ldVxDt _ => 25
  | .ldVxK _ => 26
  | .ldDtVx _ => 27
  | .ldStVx _ => 28
  | .addI _ => 29
  | .ldF _ => 30
  | .ldB _ => 31
  | .ldMemVx _ => 32
  | .ldVxMem _ => 33

/-- The encoding of `i` matches the pattern of `i`'s own row (30 R72, R76). -/
def Statement (i : Instr) : Prop :=
  ∃ r, opcodeTable[rowIndex i]? = some r ∧ r.pattern.holds (encode i) = true

theorem cls : Statement (.cls) :=
  ⟨_, rfl, by decide⟩

theorem ret : Statement (.ret) :=
  ⟨_, rfl, by decide⟩

theorem jp (nnn : Addr12) : Statement (.jp nnn) :=
  ⟨_, rfl, by simp [Pattern.holds, nibbleMatches, encode, fieldsOf_encodeNNN, openFormat]⟩

theorem call (nnn : Addr12) : Statement (.call nnn) :=
  ⟨_, rfl, by simp [Pattern.holds, nibbleMatches, encode, fieldsOf_encodeNNN, openFormat]⟩

theorem seImm (x : Nibble) (nn : Byte) : Statement (.seImm x nn) :=
  ⟨_, rfl, by simp [Pattern.holds, nibbleMatches, encode, fieldsOf_encodeXNN, openFormat]⟩

theorem sneImm (x : Nibble) (nn : Byte) : Statement (.sneImm x nn) :=
  ⟨_, rfl, by simp [Pattern.holds, nibbleMatches, encode, fieldsOf_encodeXNN, openFormat]⟩

theorem seReg (x y : Nibble) : Statement (.seReg x y) :=
  ⟨_, rfl, by simp [Pattern.holds, nibbleMatches, encode, fieldsOf_encodeXY, xyFormat]⟩

theorem ldImm (x : Nibble) (nn : Byte) : Statement (.ldImm x nn) :=
  ⟨_, rfl, by simp [Pattern.holds, nibbleMatches, encode, fieldsOf_encodeXNN, openFormat]⟩

theorem addImm (x : Nibble) (nn : Byte) : Statement (.addImm x nn) :=
  ⟨_, rfl, by simp [Pattern.holds, nibbleMatches, encode, fieldsOf_encodeXNN, openFormat]⟩

theorem ldReg (x y : Nibble) : Statement (.ldReg x y) :=
  ⟨_, rfl, by simp [Pattern.holds, nibbleMatches, encode, fieldsOf_encodeXY, xyFormat]⟩

theorem orReg (x y : Nibble) : Statement (.orReg x y) :=
  ⟨_, rfl, by simp [Pattern.holds, nibbleMatches, encode, fieldsOf_encodeXY, xyFormat]⟩

theorem andReg (x y : Nibble) : Statement (.andReg x y) :=
  ⟨_, rfl, by simp [Pattern.holds, nibbleMatches, encode, fieldsOf_encodeXY, xyFormat]⟩

theorem xorReg (x y : Nibble) : Statement (.xorReg x y) :=
  ⟨_, rfl, by simp [Pattern.holds, nibbleMatches, encode, fieldsOf_encodeXY, xyFormat]⟩

theorem addReg (x y : Nibble) : Statement (.addReg x y) :=
  ⟨_, rfl, by simp [Pattern.holds, nibbleMatches, encode, fieldsOf_encodeXY, xyFormat]⟩

theorem sub (x y : Nibble) : Statement (.sub x y) :=
  ⟨_, rfl, by simp [Pattern.holds, nibbleMatches, encode, fieldsOf_encodeXY, xyFormat]⟩

theorem shr (x y : Nibble) : Statement (.shr x y) :=
  ⟨_, rfl, by simp [Pattern.holds, nibbleMatches, encode, fieldsOf_encodeXY, xyFormat]⟩

theorem subn (x y : Nibble) : Statement (.subn x y) :=
  ⟨_, rfl, by simp [Pattern.holds, nibbleMatches, encode, fieldsOf_encodeXY, xyFormat]⟩

theorem shl (x y : Nibble) : Statement (.shl x y) :=
  ⟨_, rfl, by simp [Pattern.holds, nibbleMatches, encode, fieldsOf_encodeXY, xyFormat]⟩

theorem sneReg (x y : Nibble) : Statement (.sneReg x y) :=
  ⟨_, rfl, by simp [Pattern.holds, nibbleMatches, encode, fieldsOf_encodeXY, xyFormat]⟩

theorem ldI (nnn : Addr12) : Statement (.ldI nnn) :=
  ⟨_, rfl, by simp [Pattern.holds, nibbleMatches, encode, fieldsOf_encodeNNN, openFormat]⟩

theorem jpV0 (nnn : Addr12) : Statement (.jpV0 nnn) :=
  ⟨_, rfl, by simp [Pattern.holds, nibbleMatches, encode, fieldsOf_encodeNNN, openFormat]⟩

theorem rnd (x : Nibble) (nn : Byte) : Statement (.rnd x nn) :=
  ⟨_, rfl, by simp [Pattern.holds, nibbleMatches, encode, fieldsOf_encodeXNN, openFormat]⟩

theorem drw (x y n : Nibble) : Statement (.drw x y n) :=
  ⟨_, rfl, by simp [Pattern.holds, nibbleMatches, encode, fieldsOf_encodeXY, openFormat]⟩

theorem skp (x : Nibble) : Statement (.skp x) :=
  ⟨_, rfl, by simp [Pattern.holds, nibbleMatches, encode, fieldsOf_encodeX, xFormat]⟩

theorem sknp (x : Nibble) : Statement (.sknp x) :=
  ⟨_, rfl, by simp [Pattern.holds, nibbleMatches, encode, fieldsOf_encodeX, xFormat]⟩

theorem ldVxDt (x : Nibble) : Statement (.ldVxDt x) :=
  ⟨_, rfl, by simp [Pattern.holds, nibbleMatches, encode, fieldsOf_encodeX, xFormat]⟩

theorem ldVxK (x : Nibble) : Statement (.ldVxK x) :=
  ⟨_, rfl, by simp [Pattern.holds, nibbleMatches, encode, fieldsOf_encodeX, xFormat]⟩

theorem ldDtVx (x : Nibble) : Statement (.ldDtVx x) :=
  ⟨_, rfl, by simp [Pattern.holds, nibbleMatches, encode, fieldsOf_encodeX, xFormat]⟩

theorem ldStVx (x : Nibble) : Statement (.ldStVx x) :=
  ⟨_, rfl, by simp [Pattern.holds, nibbleMatches, encode, fieldsOf_encodeX, xFormat]⟩

theorem addI (x : Nibble) : Statement (.addI x) :=
  ⟨_, rfl, by simp [Pattern.holds, nibbleMatches, encode, fieldsOf_encodeX, xFormat]⟩

theorem ldF (x : Nibble) : Statement (.ldF x) :=
  ⟨_, rfl, by simp [Pattern.holds, nibbleMatches, encode, fieldsOf_encodeX, xFormat]⟩

theorem ldB (x : Nibble) : Statement (.ldB x) :=
  ⟨_, rfl, by simp [Pattern.holds, nibbleMatches, encode, fieldsOf_encodeX, xFormat]⟩

theorem ldMemVx (x : Nibble) : Statement (.ldMemVx x) :=
  ⟨_, rfl, by simp [Pattern.holds, nibbleMatches, encode, fieldsOf_encodeX, xFormat]⟩

theorem ldVxMem (x : Nibble) : Statement (.ldVxMem x) :=
  ⟨_, rfl, by simp [Pattern.holds, nibbleMatches, encode, fieldsOf_encodeX, xFormat]⟩

end Sys2Proof.Laws.EncodedRow
end

