-- ==== Sys2Proof/Laws/Screen.lean ====
section
/-! SUPPORT. The display: reading after a toggle, extensionality, composing a list of toggles, the cells of a sprite. -/

namespace Sys2Proof.Machine

@[simp] theorem Display.lit_clear (k : Fin 2048) : Display.lit Display.clear k = false := by
  simp [Display.lit, Display.clear]

/-- A toggle inverts its cell and no other (43 R161). -/
theorem Display.lit_toggle (d : Display) (k j : Fin 2048) :
    Display.lit (Display.toggle d k) j = if j = k then !Display.lit d k else Display.lit d j := by
  simp only [Display.lit, Display.toggle, Vector.getElem_set]
  by_cases h : k.val / 64 = j.val / 64
  · have e : (d[k.val / 64]'(by omega)) = d[j.val / 64]'(by omega) := by simp only [h]
    rw [if_pos h, BitVec.getLsbD_xor, BitVec.getLsbD_twoPow, e]
    by_cases hk : j = k
    · subst hk
      rw [if_pos rfl]
      simp [Nat.mod_lt]
    · rw [if_neg hk]
      have : k.val % 64 ≠ j.val % 64 := fun hm => hk (Fin.ext (by omega))
      simp [this]
  · rw [if_neg h, if_neg]
    rintro rfl
    exact h rfl

/-- Displays with the same cells are the same. -/
theorem Display.ext {d e : Display} (h : ∀ k, Display.lit d k = Display.lit e k) : d = e := by
  apply Vector.ext
  intro r hr
  apply BitVec.eq_of_getLsbD_eq
  intro c hc
  have := h ⟨r * 64 + c, by omega⟩
  have hq : (r * 64 + c) / 64 = r := by omega
  have hm : (r * 64 + c) % 64 = c := by omega
  simpa only [Display.lit, hq, hm] using this

theorem foldl_toggleCell_collision (cells : List (Fin 2048)) (d : Display) (b : Bool) :
    (cells.foldl toggleCell (d, b)).1 = (cells.foldl toggleCell (d, false)).1 := by
  induction cells generalizing d b with
  | nil => rfl
  | cons k ks ih =>
    simp only [List.foldl_cons, toggleCell]
    rw [ih, ih _ (false || Display.lit d k)]

/-- After the toggles a cell is inverted when it occurs an odd number of times among them (43 R161, R167). -/
theorem lit_composeCells (d : Display) (cells : List (Fin 2048)) (j : Fin 2048) :
    Display.lit (composeCells d cells).1 j = (Display.lit d j ^^ decide (cells.count j % 2 = 1)) := by
  unfold composeCells
  induction cells generalizing d with
  | nil => simp
  | cons k ks ih =>
    rw [List.foldl_cons, toggleCell, foldl_toggleCell_collision, ih, Display.lit_toggle, List.count_cons]
    by_cases h : j = k
    · subst h
      simp only [if_pos, beq_self_eq_true]
      rcases Nat.mod_two_eq_zero_or_one (ks.count j) with h0 | h0
      · rw [show (List.count j ks + 1) % 2 = 1 by omega]; simp [h0]
      · rw [show (List.count j ks + 1) % 2 = 0 by omega]; simp [h0]
    · have : (k == j) = false := by simpa using Ne.symm h
      simp [h, this]

/-- The collision of pairwise distinct cells: one of them was lit before the instruction (43 R162, R165 (c)). -/
theorem collision_composeCells (d : Display) (cells : List (Fin 2048)) (hn : cells.Nodup) :
    (composeCells d cells).2 = cells.any fun k => Display.lit d k := by
  have key : ∀ (cells : List (Fin 2048)), cells.Nodup → ∀ (d : Display) (b : Bool),
      (cells.foldl toggleCell (d, b)).2 = (b || cells.any fun k => Display.lit d k) := by
    intro cells
    induction cells with
    | nil => simp
    | cons k ks ih =>
      intro hn d b
      rw [List.nodup_cons] at hn
      rw [List.foldl_cons, toggleCell, ih hn.2, List.any_cons, Bool.or_assoc]
      congr 2
      rw [Bool.eq_iff_iff, List.any_eq_true, List.any_eq_true]
      constructor <;> rintro ⟨j, hj, h⟩ <;> refine ⟨j, hj, ?_⟩
      · rwa [Display.lit_toggle, if_neg (by rintro rfl; exact hn.1 hj)] at h
      · rwa [Display.lit_toggle, if_neg (by rintro rfl; exact hn.1 hj)]
  simpa [composeCells] using key cells hn d false

/-- The cells of one row, by number (43 R163, R164). -/
theorem map_val_rowCells (x0 y : Nat) (b : Byte) :
    (rowCells x0 y b).map (fun k => k.val) =
      ((List.range 8).filter fun c => b.getLsbD (7 - c)).map fun c => y % 32 * 64 + (x0 + c) % 64 := by
  unfold rowCells
  generalize List.range 8 = l
  induction l with
  | nil => rfl
  | cons c l ih =>
    rw [List.filterMap_cons, List.filter_cons]
    cases h : b.getLsbD (7 - c)
    · simpa [h] using ih
    · simpa [h, cellIndex] using ih

/-- A cell of a row lies in that row, at one of its eight columns. -/
theorem mem_rowCells {x0 y : Nat} {b : Byte} {k : Fin 2048} (h : k ∈ rowCells x0 y b) :
    ∃ c, c < 8 ∧ k = cellIndex (x0 + c) y := by
  simp only [rowCells, List.mem_filterMap, List.mem_range] at h
  obtain ⟨c, hc, h⟩ := h
  split at h
  · exact ⟨c, hc, by simpa using h.symm⟩
  · cases h

/-- A cell of a sprite lies in one of its rows. -/
theorem mem_spriteCells {x0 y : Nat} {rows : List Byte} {k : Fin 2048} (h : k ∈ spriteCells x0 y rows) :
    ∃ r c, r < rows.length ∧ c < 8 ∧ k = cellIndex (x0 + c) (y + r) := by
  induction rows generalizing y with
  | nil => simp [spriteCells] at h
  | cons b bs ih =>
    rcases List.mem_append.1 h with h | h
    · obtain ⟨c, hc, rfl⟩ := mem_rowCells h
      exact ⟨0, c, by simp, hc, rfl⟩
    · obtain ⟨r, c, hr, hc, rfl⟩ := ih h
      exact ⟨r + 1, c, by simp; omega, hc, by rw [show y + (r + 1) = y + 1 + r by omega]⟩

/-- The cells of a row are pairwise distinct: eight columns do not wrap onto each other (43 R165 (c)). -/
theorem nodup_rowCells (x0 y : Nat) (b : Byte) : (rowCells x0 y b).Nodup := by
  apply List.Nodup.of_map (fun k => k.val)
  rw [map_val_rowCells]
  refine List.Nodup.map_on (fun c hc e he h => ?_) (List.nodup_range.filter _)
  have hc := List.mem_range.1 (List.mem_of_mem_filter hc)
  have he := List.mem_range.1 (List.mem_of_mem_filter he)
  omega

/-- The cells of a sprite of at most 32 rows are pairwise distinct (43 R165 (c)). -/
theorem nodup_spriteCells (x0 y : Nat) (rows : List Byte) (h : rows.length ≤ 32) : (spriteCells x0 y rows).Nodup := by
  induction rows generalizing y with
  | nil => exact List.nodup_nil
  | cons b bs ih =>
    simp only [List.length_cons] at h
    refine List.nodup_append.2 ⟨nodup_rowCells x0 y b, ih (y + 1) (by omega), ?_⟩
    rintro k hk j hj rfl
    obtain ⟨c, hc, hk⟩ := mem_rowCells hk
    obtain ⟨r, e, hr, he, hj⟩ := mem_spriteCells hj
    have := congrArg Fin.val (hk.symm.trans hj)
    simp only [cellIndex] at this
    omega

/-- The cells of a sprite, by number, in the order of 43 R161. -/
theorem map_val_spriteCells (x0 y : Nat) (rows : List Byte) :
    (spriteCells x0 y rows).map (fun k => k.val) =
      (List.range rows.length).flatMap fun r =>
        ((List.range 8).filter fun c => (rows[r]?.getD 0).getLsbD (7 - c)).map fun c =>
          (y + r) % 32 * 64 + (x0 + c) % 64 := by
  induction rows generalizing y with
  | nil => rfl
  | cons b bs ih =>
    rw [spriteCells, List.map_append, map_val_rowCells, ih, List.length_cons, List.range_succ_eq_map (n := bs.length),
      List.flatMap_cons, List.flatMap_map]
    simp [Nat.add_assoc, Nat.add_comm 1]

end Sys2Proof.Machine
end

