-- ==== Sys2Proof/Machine/Assembly.lean ====
section
/-! DEFINITION. An instruction written in the assembler syntax of 30 R80: for reading, no rule of the machine depends on it. -/

namespace Sys2Proof.Machine

/-- A hexadecimal digit. -/
def hexDigit (d : Nibble) : String :=
  match d.toNat with
  | 0 => "0" | 1 => "1" | 2 => "2" | 3 => "3" | 4 => "4" | 5 => "5" | 6 => "6" | 7 => "7"
  | 8 => "8" | 9 => "9" | 10 => "A" | 11 => "B" | 12 => "C" | 13 => "D" | 14 => "E" | _ => "F"

/-- `Vx`: `V` and one hexadecimal digit. -/
def regName (x : Nibble) : String := "V" ++ hexDigit x

/-- `nn`, hexadecimal with its mark. -/
def immText (nn : Byte) : String := "0x" ++ hexDigit (nn.extractLsb' 4 4) ++ hexDigit (nn.extractLsb' 0 4)

/-- `nnn`, hexadecimal with its mark. -/
def addrText (nnn : Addr12) : String :=
  "0x" ++ hexDigit (nnn.extractLsb' 8 4) ++ hexDigit (nnn.extractLsb' 4 4) ++ hexDigit (nnn.extractLsb' 0 4)

/-- A mnemonic with two operands. -/
def twoOperands (m a b : String) : String := m ++ " " ++ a ++ ", " ++ b

/-- `SHR Vx` and `SHL Vx` stand for `y = 0`; the two-operand spelling gives the ignored `y` (30 R80). -/
def shiftText (m : String) (x y : Nibble) : String :=
  if y = 0 then m ++ " " ++ regName x else twoOperands m (regName x) (regName y)

/-- The one line that assembles to the instruction's word (30 R80, R81). -/
def assembly : Instr → String
  | .cls => "CLS"
  | .ret => "RET"
  | .jp nnn => "JP " ++ addrText nnn
  | .call nnn => "CALL " ++ addrText nnn
  | .seImm x nn => twoOperands "SE" (regName x) (immText nn)
  | .sneImm x nn => twoOperands "SNE" (regName x) (immText nn)
  | .seReg x y => twoOperands "SE" (regName x) (regName y)
  | .ldImm x nn => twoOperands "LD" (regName x) (immText nn)
  | .addImm x nn => twoOperands "ADD" (regName x) (immText nn)
  | .ldReg x y => twoOperands "LD" (regName x) (regName y)
  | .orReg x y => twoOperands "OR" (regName x) (regName y)
  | .andReg x y => twoOperands "AND" (regName x) (regName y)
  | .xorReg x y => twoOperands "XOR" (regName x) (regName y)
  | .addReg x y => twoOperands "ADD" (regName x) (regName y)
  | .sub x y => twoOperands "SUB" (regName x) (regName y)
  | .shr x y => shiftText "SHR" x y
  | .subn x y => twoOperands "SUBN" (regName x) (regName y)
  | .shl x y => shiftText "SHL" x y
  | .sneReg x y => twoOperands "SNE" (regName x) (regName y)
  | .ldI nnn => twoOperands "LD" "I" (addrText nnn)
  | .jpV0 nnn => twoOperands "JP" "V0" (addrText nnn)
  | .rnd x nn => twoOperands "RND" (regName x) (immText nn)
  | .drw x y n => twoOperands "DRW" (regName x) (regName y) ++ ", 0x" ++ hexDigit n
  | .skp x => "SKP " ++ regName x
  | .sknp x => "SKNP " ++ regName x
  | .ldVxDt x => twoOperands "LD" (regName x) "DT"
  | .ldVxK x => twoOperands "LD" (regName x) "K"
  | .ldDtVx x => twoOperands "LD" "DT" (regName x)
  | .ldStVx x => twoOperands "LD" "ST" (regName x)
  | .addI x => twoOperands "ADD" "I" (regName x)
  | .ldF x => twoOperands "LD" "F" (regName x)
  | .ldB x => twoOperands "LD" "B" (regName x)
  | .ldMemVx x => twoOperands "LD" "[I]" (regName x)
  | .ldVxMem x => twoOperands "LD" (regName x) "[I]"

end Sys2Proof.Machine
end

