-- ==== Sys2Proof/Tests/Slice0.lean ====
section
/-! SUPPORT. Tests: the check of well-formedness, words written out from the table of 30 R76, one step per vector of spec file 95, and
for every obligation with hypotheses a witness that meets them, at the boundary values of its clauses. -/

namespace Sys2Proof.Tests

open Sys2Proof.Machine

/-! Helpers. -/

/-- Reset with some registers set. -/
def regs (l : List (Nibble × Byte)) : State := l.foldl (fun s p => s.setReg p.1 p.2) State.reset

/-- One step on the word `w` answers a next state of which `p` holds. -/
def runs (s : State) (w : Nat) (p : State → Bool) : Bool :=
  match step (s.withFetchWord 16 w) with
  | .next t => p t
  | .fault _ | .refused _ => false

/-- One step on the word `w` ends in the fatal fault `c`, reported at `PC`, and leaves every other piece of state as it was. -/
def stops (s : State) (w : Nat) (c : FatalCause) : Bool :=
  match step (s.withFetchWord 16 w) with
  | .fault (.fatal r t) =>
    decide (r = ⟨c, s.pc⟩) && decide (t = { s.withFetchWord 16 w with faulted := some ⟨c, s.pc⟩ })
  | .fault (.decodeFailure _ _) | .next _ | .refused _ => false

/-- The word `w` at reset's `PC` is the decode failure of 30 R77. -/
def fails (w : Nat) : Bool :=
  match step (State.reset.withFetchWord 16 w) with
  | .fault (.decodeFailure pc v) => pc == 0x200 && v.toNat == w
  | .fault (.fatal _ _) | .next _ | .refused _ => false

/-- The word `w` decodes to `i`, and `i` is encoded as `w`. -/
def reads (w : Word) (i : Instr) : Bool :=
  match decode w with
  | .ok j => j == i && encode i == w
  | .error _ => false

/-- An event answers a next state and an answer of which `p` holds. -/
def handles (e : Event) (s : State) (p : State → Output → Bool) : Bool :=
  match handle e s with
  | .next q => p q.1 q.2
  | .fault _ | .refused _ => false

/-- An event is refused with `r`. -/
def refuses (e : Event) (s : State) (r : Refusal) : Bool :=
  match handle e s with
  | .refused q => q == r
  | .fault _ | .next _ => false

/-- Some bytes stored from `a`. -/
def poke (s : State) (a : Nat) (bs : List Byte) : State := s.setMem (Memory.writeBytes s.mem a bs)

/-! Well-formedness: one ill-formed event for each check, refused by the check (an ill-formed instruction cannot be written down). -/

theorem test_wf_instr : Instr.wf (.drw 15 0 15) = true := by decide

theorem test_wf_key_low : Event.wf Config.Params.default (.keyPress 0) = false := by decide
theorem test_wf_key_high : Event.wf Config.Params.default (.keyPress 17) = false := by decide
theorem test_wf_key_ok : Event.wf Config.Params.default (.keyPress 16) = true := by decide
theorem test_wf_read : Event.wf Config.Params.default (.readDisplay 2048) = false := by decide
theorem test_wf_font : Event.wf ⟨4090, 5, 16⟩ (.initialise 0 0 0 0 (List.replicate 7 0)) = false := by decide

/-! Decoding: every row by a word written out from 30 R76. -/

theorem test_decode_rows1 : reads 0x00E0 .cls ∧ reads 0x00EE .ret ∧ reads 0x1234 (.jp 0x234) ∧ reads 0x2400 (.call 0x400) ∧
    reads 0x3A10 (.seImm 10 0x10) ∧ reads 0x4A10 (.sneImm 10 0x10) ∧ reads 0x5120 (.seReg 1 2) := by decide
theorem test_decode_rows2 : reads 0x6A3C (.ldImm 10 0x3C) ∧ reads 0x7105 (.addImm 1 5) ∧ reads 0x8120 (.ldReg 1 2) ∧
    reads 0x8FE1 (.orReg 15 14) ∧ reads 0x8012 (.andReg 0 1) ∧ reads 0x8013 (.xorReg 0 1) ∧
    reads 0x80F4 (.addReg 0 15) := by decide
theorem test_decode_rows3 : reads 0x8F05 (.sub 15 0) ∧ reads 0x8126 (.shr 1 2) ∧ reads 0x8017 (.subn 0 1) ∧
    reads 0x801E (.shl 0 1) ∧ reads 0x9120 (.sneReg 1 2) ∧ reads 0xA2F0 (.ldI 0x2F0) ∧
    reads 0xB300 (.jpV0 0x300) := by decide
theorem test_decode_rows4 : reads 0xC10F (.rnd 1 0x0F) ∧ reads 0xD7A5 (.drw 7 10 5) ∧ reads 0xE19E (.skp 1) ∧
    reads 0xE1A1 (.sknp 1) ∧ reads 0xF307 (.ldVxDt 3) ∧ reads 0xF30A (.ldVxK 3) ∧ reads 0xF315 (.ldDtVx 3) := by decide
theorem test_decode_rows5 : reads 0xF118 (.ldStVx 1) ∧ reads 0xF11E (.addI 1) ∧ reads 0xF029 (.ldF 0) ∧
    reads 0xF033 (.ldB 0) ∧ reads 0xF255 (.ldMemVx 2) ∧ reads 0xFF65 (.ldVxMem 15) := by decide

/-- V-DEC-8: the fields of 0xD7A5. -/
theorem test_fields : fieldsOf 0xD7A5 = ⟨0xD, 7, 0xA, 5, 0xA5, 0x7A5⟩ := by decide

/-- 30 R72: the masks of rows 1, 3, 7 and 24 as opcode_table.json writes them. -/
theorem test_masks : (opFormat 0 0 0xE 0).maskWord = 0xFFFF ∧ (openFormat 1).maskWord = 0xF000 ∧
    (xyFormat 5 0).maskWord = 0xF00F ∧ (xFormat 0xE 9 0xE).maskWord = 0xF0FF ∧
    (xFormat 0xE 9 0xE).matchWord = 0xE09E := by decide

/-- 30 R80: spellings of programs P2 and P4, and the ignored `y` of a shift. -/
theorem test_assembly : assembly (.ldVxMem 2) = "LD V2, [I]" ∧ assembly (.addImm 1 0xFF) = "ADD V1, 0xFF" ∧
    assembly (.jp 0x20C) = "JP 0x20C" ∧ assembly (.shr 1 0) = "SHR V1" ∧ assembly (.shr 1 2) = "SHR V1, V2" := by decide

theorem test_truncated : decodeBytes [0x12] = .error (.truncated 1) ∧ decodeBytes [] = .error (.truncated 0) := ⟨rfl, rfl⟩

/-- V-DEC-1 to V-DEC-7. -/
theorem test_unmatched : ∀ w ∈ [0x0000, 0x0123, 0x00E1, 0x00EF, 0x8128, 0x812F, 0xE100, 0xE1A0, 0xF100, 0xF1FF, 0x9121, 0x512F],
    fails w = true := by decide

/-! Loads, adds, bitwise family (95, 2.1). -/

/-- V-LD-2. -/
theorem test_ld_imm : runs (regs [(15, 1)]) 0x6F07 (fun t => t.reg 15 == 7 && t.pc == 0x202) := by decide
/-- V-ADDI-2: no carry flag. -/
theorem test_add_imm : runs (regs [(1, 0xFF), (15, 1)]) 0x7101 (fun t => t.reg 1 == 0 && t.reg 15 == 1) := by decide
/-- V-MOV-1. -/
theorem test_ld_reg : runs (regs [(2, 0x77)]) 0x8120 (fun t => t.reg 1 == 0x77 && t.reg 2 == 0x77) := by decide
/-- V-OR-1: `VF` is not reset. -/
theorem test_or : runs (regs [(0, 0x0F), (1, 0xF0), (15, 1)]) 0x8011 (fun t => t.reg 0 == 0xFF && t.reg 15 == 1) := by
  decide
/-- V-AND-1. -/
theorem test_and : runs (regs [(0, 0x3C), (1, 0x0F)]) 0x8012 (fun t => t.reg 0 == 0x0C) := by decide
/-- V-XOR-1, V-XOR-2. -/
theorem test_xor : runs (regs [(0, 0xFF), (1, 0x0F)]) 0x8013 (fun t => t.reg 0 == 0xF0) ∧
    runs (regs [(0, 0xA5)]) 0x8003 (fun t => t.reg 0 == 0) := by decide

/-! Adds and subtractions with a flag, shifts, random (95, 2.2 and 2.3). -/

/-- S2, V-ADD-3. -/
theorem test_add : runs (regs [(0, 0x21), (1, 2)]) 0x8014 (fun t => t.reg 0 == 0x23 && t.reg 15 == 0 && t.pc == 0x202) ∧
    runs (regs [(0, 0xFF), (1, 1)]) 0x8014 (fun t => t.reg 0 == 0 && t.reg 15 == 1) := by decide
/-- V-ADD-6, V-ADD-7: `VF` as source and as destination. -/
theorem test_add_vf : runs (regs [(0, 0x10), (15, 1)]) 0x80F4 (fun t => t.reg 0 == 0x11 && t.reg 15 == 0) ∧
    runs (regs [(15, 0xF0), (0, 0x20)]) 0x8F04 (fun t => t.reg 15 == 0x10) := by decide
/-- V-SUB-2, V-SUB-3: the comparison is strict. -/
theorem test_sub : runs (regs [(0, 5), (1, 7)]) 0x8015 (fun t => t.reg 0 == 0xFE && t.reg 15 == 0) ∧
    runs (regs [(0, 5), (1, 5), (15, 9)]) 0x8015 (fun t => t.reg 0 == 0 && t.reg 15 == 0) := by decide
/-- V-SUB-7, V-SUB-8. -/
theorem test_sub_vf : runs (regs [(15, 9), (0, 4)]) 0x8F05 (fun t => t.reg 15 == 5) ∧
    runs (regs [(0, 9), (15, 1)]) 0x80F5 (fun t => t.reg 0 == 8 && t.reg 15 == 1) := by decide
/-- S3, V-SUBN-2. -/
theorem test_subn : runs (regs [(0, 2), (1, 3)]) 0x8017 (fun t => t.reg 0 == 1 && t.reg 15 == 1) ∧
    runs (regs [(0, 3), (1, 2)]) 0x8017 (fun t => t.reg 0 == 0xFF && t.reg 15 == 0) := by decide
/-- V-SHR-3, V-SHR-4: logical, `y` ignored. -/
theorem test_shr : runs (regs [(1, 0x80), (15, 1)]) 0x8106 (fun t => t.reg 1 == 0x40 && t.reg 15 == 0) ∧
    runs (regs [(1, 4), (2, 0xFF)]) 0x8126 (fun t => t.reg 1 == 2 && t.reg 2 == 0xFF && t.reg 15 == 0) := by decide
/-- S4, V-SHL-5. -/
theorem test_shl : runs (regs [(0, 0xCE)]) 0x800E (fun t => t.reg 0 == 0x9C && t.reg 15 == 1) ∧
    runs (regs [(15, 0x81)]) 0x8F0E (fun t => t.reg 15 == 2) := by decide
/-- V-RND-2: whatever the byte drawn, a zero mask gives 0. -/
theorem test_rnd_zero : ∃ t, exec (.rnd 1 0) (regs [(1, 0x55)]) = .next t ∧ t.reg 1 = 0 :=
  ⟨_, rfl, (State.reg_setReg_self (regs [(1, 0x55)]) 1 _).trans (BitVec.and_zero ..)⟩
/-- V-RND-3: a full mask gives the byte drawn. -/
theorem test_rnd_full : ∃ t, exec (.rnd 1 0xFF) State.reset = .next t ∧ t.reg 1 = Config.freeByte 0 ∧ t.draws = 1 :=
  ⟨_, rfl, (State.reg_setReg_self State.reset 1 _).trans (BitVec.and_allOnes ..), rfl⟩

/-! Skips, jumps, call, return (95, 2.4). -/

/-- V-SE-1, V-SE-2. -/
theorem test_se_imm : runs (regs [(10, 0x10)]) 0x3A10 (fun t => t.pc == 0x204) ∧
    runs (regs [(10, 0x11)]) 0x3A10 (fun t => t.pc == 0x202) := by decide
/-- V-SNE-1, V-SNE-2. -/
theorem test_sne_imm : runs (regs [(10, 0x10)]) 0x4A10 (fun t => t.pc == 0x202) ∧
    runs (regs [(10, 0x11)]) 0x4A10 (fun t => t.pc == 0x204) := by decide
/-- V-SER-1. -/
theorem test_se_reg : runs (regs [(1, 7), (2, 7)]) 0x5120 (fun t => t.pc == 0x204) ∧
    runs (regs [(1, 7), (2, 8)]) 0x5120 (fun t => t.pc == 0x202) := by decide
/-- V-SNER-1, V-SNER-2. -/
theorem test_sne_reg : runs (regs [(1, 7), (2, 8)]) 0x9120 (fun t => t.pc == 0x204) ∧
    runs (regs []) 0x9110 (fun t => t.pc == 0x202) := by decide
/-- V-JP-1, V-JP-3. -/
theorem test_jp : runs State.reset 0x1234 (fun t => t.pc == 0x234) ∧ runs State.reset 0x1FFF (fun t => t.pc == 0xFFF) := by
  decide
/-- V-JPV-2, V-JPV-3: not reduced to 12 bits, and `V[0]` only. -/
theorem test_jp_v0 : runs (regs [(0, 2)]) 0xBFFF (fun t => t.pc == 0x1001) ∧
    runs (regs [(3, 0x50)]) 0xB300 (fun t => t.pc == 0x300) := by decide
/-- V-CALL-1: the address of the CALL itself is pushed. -/
theorem test_call : runs (State.reset.setPc 0x210) 0x2400 (fun t => t.stk == [0x210] && t.pc == 0x400) := by decide
/-- V-CALL-2: the 17th `CALL` overflows. -/
theorem test_call_full : stops (State.reset.setStk (List.replicate 16 0x200)) 0x2200 .stackOverflow := by decide
/-- V-RET-3. -/
theorem test_ret : runs (State.reset.setStk [0x204, 0x310]) 0x00EE (fun t => t.stk == [0x204] && t.pc == 0x312) := by
  decide
/-- V-RET-2. -/
theorem test_ret_empty : stops State.reset 0x00EE .stackUnderflow := by decide

/-! Index register and memory (95, 2.5). -/

/-- V-LDI-1. -/
theorem test_ld_i : runs State.reset 0xA2F0 (fun t => t.i == 0x2F0) := by decide
/-- V-ADDI16-2, V-ADDI16-3. -/
theorem test_add_i : runs ((regs [(1, 1)]).setI 0xFFE) 0xF11E (fun t => t.i == 0xFFF && t.reg 15 == 0) ∧
    runs ((regs [(1, 2)]).setI 0xFFE) 0xF11E (fun t => t.i == 0x1000 && t.reg 15 == 1) := by decide
/-- V-ADDI16-4, V-ADDI16-6. -/
theorem test_add_i_wraps : runs ((regs [(1, 1), (15, 7)]).setI 0xFFFF) 0xF11E (fun t => t.i == 0 && t.reg 15 == 0) ∧
    runs ((regs [(15, 5)]).setI 0x100) 0xFF1E (fun t => t.i == 0x105 && t.reg 15 == 0) := by decide
/-- V-FONT-3: all 8 bits count. -/
theorem test_ld_f : runs (regs [(0, 0xFF)]) 0xF029 (fun t => t.i == 0x4FB) := by decide
/-- S9. -/
theorem test_ld_b : runs ((regs [(0, 136)]).setI 0x300) 0xF033
    (fun t => Memory.readBytes t.mem 0x300 3 == [1, 3, 6] && t.i == 0x300) := by decide
/-- V-BCD-6. -/
theorem test_ld_b_fault : stops ((regs [(0, 100)]).setI 0xFFE) 0xF033 (.addressOutOfRange 0x1000) := by decide
/-- V-ST-1. -/
theorem test_store : runs ((regs [(0, 0x11), (1, 0x22), (2, 0x33), (3, 0x44)]).setI 0x300) 0xF255
    (fun t => Memory.readBytes t.mem 0x300 4 == [0x11, 0x22, 0x33, 0] && t.i == 0x300) := by decide
/-- V-ST-3. -/
theorem test_store_fault : stops ((regs [(0, 0xAB)]).setI 0xFFF) 0xF155 (.addressOutOfRange 0x1000) := by decide
/-- `LD V2, [I]` as in program P2: `V[0]` to `V[2]` are read, `V[3]` is not. -/
theorem test_load : runs (poke ((regs [(3, 9)]).setI 0x300) 0x300 [1, 3, 6, 7]) 0xF265
    (fun t => t.reg 0 == 1 && t.reg 1 == 3 && t.reg 2 == 6 && t.reg 3 == 9 && t.i == 0x300) := by decide
/-- 42 R145 with 20 R59: no register is written. -/
theorem test_load_fault : stops ((regs [(0, 0xAB)]).setI 0xFFF) 0xF165 (.addressOutOfRange 0x1000) := by decide

/-! Graphics (95, 2.6). -/

/-- 43 R160: the display is cleared and the queue discarded. -/
theorem test_cls : runs (State.reset.setScreen (Display.toggle Display.clear 5) [5]) 0x00E0
    (fun t => t.disp == Display.clear && t.dq == [] && t.clrp && !t.rdrp) := by decide
/-- S5. -/
theorem test_drw : runs (poke ((regs [(0, 4), (1, 7)]).setI 0x20C) 0x20C [0xF0, 0x10, 0xF0, 0x80, 0xF0]) 0xD015
    (fun t => t.dq == [452, 453, 454, 455, 519, 580, 581, 582, 583, 644, 708, 709, 710, 711] && t.reg 15 == 0 && t.rdrp &&
      t.dq.all (fun k => Display.lit t.disp k) && !Display.lit t.disp 456) := by decide
/-- V-DRW-5 (collision) and V-DRW-4 (wrapped start). -/
theorem test_drw_collision : runs (poke ((State.reset.setI 0x300).setScreen (Display.toggle Display.clear 1) []) 0x300 [0xC0])
    0xD011 (fun t => t.reg 15 == 1 && t.dq == [0, 1] && Display.lit t.disp 0 && !Display.lit t.disp 1) ∧
    runs (poke ((regs [(0, 200), (1, 100)]).setI 0x300) 0x300 [0xC0]) 0xD011 (fun t => t.dq == [264, 265]) := by
  decide

/-! Timers and keyboard (95, 2.7). -/

/-- V-TMR-1. -/
theorem test_ld_vx_dt : runs (State.reset.setDt 0x2A) 0xF307 (fun t => t.reg 3 == 0x2A && t.dt == 0x2A) := by decide
/-- V-TMR-3: no substitution. -/
theorem test_ld_dt_vx : runs (regs [(3, 1)]) 0xF315 (fun t => t.dt == 1) := by decide
/-- V-TMR-4, V-TMR-6. -/
theorem test_ld_st_vx : runs (regs [(1, 1)]) 0xF118 (fun t => t.st == 2 && t.snd && t.reg 1 == 1) ∧
    runs ((regs []).setSt 9) 0xF118 (fun t => t.st == 0 && !t.snd) := by decide
/-- V-KEY-3, V-KEY-6. -/
theorem test_skp : runs State.reset 0xE19E (fun t => t.pc == 0x204) ∧
    runs ((regs [(1, 0x11)]).setKey 16) 0xE19E (fun t => t.pc == 0x202) := by decide
/-- V-KEY-4, V-KEY-5. -/
theorem test_sknp : runs (regs [(1, 5)]) 0xE1A1 (fun t => t.pc == 0x204) ∧
    runs ((regs [(1, 5)]).setKey 5) 0xE1A1 (fun t => t.pc == 0x202) := by decide
/-- V-KEY-7. -/
theorem test_ld_vx_k_waits : runs (regs [(3, 9)]) 0xF30A (fun t => t.wait && t.pc == 0x200 && t.reg 3 == 9) := by
  decide
/-- V-KEY-9. -/
theorem test_ld_vx_k_ends : runs ((State.reset.setWait true).setKey 7) 0xF30A
    (fun t => !t.wait && t.pc == 0x202 && t.reg 3 == 7) := by decide

/-! Events and the fault entry (95, 2.6 to 2.9). -/

/-- V-TICK-1, V-TICK-2. -/
theorem test_tick : handles .timerTick ((State.reset.setDt 3).setSt 1) (fun t _ => t.dt == 2 && t.st == 0 && !t.snd) ∧
    handles .timerTick State.reset (fun t _ => t.dt == 0 && t.st == 0) := by decide
/-- V-DRAIN-1. -/
theorem test_drain : handles .drainDirty (State.reset.setScreen Display.clear [0, 1, 0])
    (fun t o => t.dq == [] && o == .drained [0, 1, 0]) := by decide
/-- V-RST-1: the glyph bytes. -/
theorem test_initialise : handles (.initialise 0x200 0 0 0 Config.fontData) (poke (regs [(5, 9)]) 0x50 [1])
    (fun t _ => t == State.reset && Memory.readBytes t.mem 0x4B 6 == [0xF0, 0x80, 0xF0, 0x80, 0x80, 0]) := by decide
/-- V-RST-2. -/
theorem test_initialise_args : handles (.initialise 0x200 0x10 1 0x123 []) State.reset
    (fun t _ => t.dt == 0x10 && t.st == 1 && t.snd && t.i == 0x123 && Memory.read t.mem 0 == 0) := by decide
/-- V-LOAD-1. -/
theorem test_load_program : handles (.loadProgram [0x60, 0x01] 0x200) (((regs [(5, 9)]).setPc 0x20A).setWait true)
    (fun t o => Memory.readBytes t.mem 0x200 2 == [0x60, 0x01] && t.reg 5 == 0 && !t.wait && t.pc == 0x20A && o == .silent) := by
  decide
/-- The memory's canonical form: writing the font's own byte back removes the entry. -/
theorem test_memory_canonical : poke (poke State.reset 0x4F [7]) 0x4F [0x80] = State.reset := by decide
/-- From reset with nothing placed the first step is the decode failure of the word 0 at 0x200 (log entry 11). -/
theorem test_reset_step : ∃ pc w, step State.reset = .fault (.decodeFailure pc w) ∧ pc = 0x200 ∧ w = 0 :=
  ⟨_, _, rfl, by decide, by decide⟩

/-! Witnesses: for each obligation with hypotheses, a state and operands that meet them, one per clause, at its boundary. -/

/-- The invariant of a core that neither waits nor is faulted is what it says of memory and the stack. -/
theorem inv_of_running {s : State} (hm : Memory.wf s.mem) (hs : s.stk.length ≤ s.par.stackDepth) (hw : s.wait = false)
    (hf : s.faulted = none) : Inv s :=
  ⟨hm, hs, fun h => absurd (hw.symm.trans h) Bool.false_ne_true, fun _ h => nomatch hf.symm.trans h⟩

/-- Reset with `LD V0, 0x12` where the next step fetches. -/
def loaded : State := State.reset.withFetchWord 16 0x6012

/-- A key-wait in progress. -/
def waiting : State := (State.reset.withFetchWord 16 0xF30A).setWait true

/-- A core that a `RET` on an empty stack has stopped. -/
def stopped : State := (State.reset.withFetchWord 16 0x00EE).setFaulted (some ⟨.stackUnderflow, 0x200⟩)

theorem witness_DecodeAfterEncode : Instr.wf (.shl 15 1) = true := rfl
theorem witness_EncodeAfterDecode : decode 0x812E = .ok (.shl 1 2) := rfl
theorem witness_OpcodeRowsDisjoint : ∃ r, opcodeTable[15]? = some r ∧ r.pattern.holds 0x8126 = true := ⟨_, rfl, by decide⟩

theorem witness_StepRunsDecodedInstruction_idle :
    loaded.faulted = none ∧ loaded.fetch = .ok 0x6012 ∧ decode 0x6012 = .ok (.ldImm 0 0x12) ∧ loaded.script = [] :=
  ⟨rfl, rfl, rfl, rfl⟩
theorem witness_StepRunsDecodedInstruction_script :
    (loaded.setScript [.step, .timerTick]).faulted = none ∧ (loaded.setScript [.step, .timerTick]).fetch = .ok 0x6012 ∧
      (loaded.setScript [.step, .timerTick]).script = .step :: [.timerTick] := ⟨rfl, rfl, rfl⟩

theorem witness_FetchIsBigEndian : (State.reset.setPc 4094).pc.toNat ≤ 4094 := by decide
theorem witness_FetchOutOfRangeFaults :
    (State.reset.setPc 4095).script = [] ∧ (State.reset.setPc 4095).faulted = none ∧ (State.reset.setPc 4095).pc.toNat = 4095 ∧
      4095 < (State.reset.setPc 4096).pc.toNat := by decide
theorem witness_DecodeFailureChangesNothing : StepsOn State.reset 0 ∧ decode 0 = .error (.unmatched 0) :=
  ⟨⟨rfl, rfl, rfl⟩, rfl⟩
theorem witness_FatalFaultChangesOnlyFaulted : ∃ r t, exec .ret State.reset = .fault (.fatal r t) := ⟨_, _, rfl⟩
theorem witness_FaultedStepReportsAgain : stopped.faulted = some ⟨.stackUnderflow, 0x200⟩ ∧ stopped.script = [] := ⟨rfl, rfl⟩
theorem witness_OnlyInitialiseClearsFaulted :
    stopped.faulted = some ⟨.stackUnderflow, 0x200⟩ ∧
      (∀ start delay sound index font, Event.timerTick ≠ .initialise start delay sound index font) ∧
      stopped.par.fontBase + (List.replicate 4096 (0 : Byte)).length ≤ 4096 :=
  ⟨rfl, by simp, by rw [List.length_replicate]; decide⟩

theorem witness_StepKeepsMachineWellFormed_next : Inv loaded ∧ ∃ t, step loaded = .next t :=
  ⟨inv_of_running (by decide) (by decide) rfl rfl, _, rfl⟩
theorem witness_StepKeepsMachineWellFormed_waiting : Inv waiting ∧ waiting.wait = true ∧ ∃ t, step waiting = .next t :=
  ⟨⟨by decide, by decide, fun _ => ⟨0xF30A, 3, rfl, rfl⟩, fun _ h => (nomatch h)⟩, rfl, _, rfl⟩
theorem witness_StepKeepsMachineWellFormed_fault :
    Inv stopped ∧ ∃ r t, step stopped = .fault (.fatal r t) :=
  ⟨⟨by decide, by decide, fun h => (nomatch h), fun r h => (by cases h; exact ⟨rfl, trivial⟩)⟩, _, _, rfl⟩

theorem witness_TimersChangedOnlyByTheirWrites : (∃ t, exec .cls State.reset = .next t) ∧ (∀ x, Instr.cls ≠ .ldDtVx x) ∧
    ∀ x, Instr.cls ≠ .ldStVx x := ⟨⟨_, rfl⟩, by simp, by simp⟩
theorem witness_FlagWritersAreComplete : (∃ t, exec (.ldVxMem 14) State.reset = .next t) ∧ writesVf (.ldVxMem 14) = false ∧
    destination (.ldVxMem 14) ≠ some 15 := ⟨⟨_, rfl⟩, rfl, by decide⟩
theorem witness_IndexChangedOnlyByIndexInstructions : (∃ t, exec (.ldMemVx 15) State.reset = .next t) ∧
    (∀ n, Instr.ldMemVx 15 ≠ .ldI n) ∧ (∀ x, Instr.ldMemVx 15 ≠ .addI x) ∧ ∀ x, Instr.ldMemVx 15 ≠ .ldF x :=
  ⟨⟨_, rfl⟩, by simp, by simp, by simp⟩
theorem witness_MemoryAndStackWriters : (∃ t, exec (.ldVxMem 15) State.reset = .next t) ∧ (∀ x, Instr.ldVxMem 15 ≠ .ldB x) ∧
    (∀ x, Instr.ldVxMem 15 ≠ .ldMemVx x) ∧ (∀ n, Instr.ldVxMem 15 ≠ .call n) ∧ Instr.ldVxMem 15 ≠ .ret :=
  ⟨⟨_, rfl⟩, by simp, by simp, by simp, by simp⟩
theorem witness_ScreenWriters : (∃ t, exec (.ldF 0) State.reset = .next t) ∧ Instr.ldF 0 ≠ .cls ∧
    ∀ x y n, Instr.ldF 0 ≠ .drw x y n := ⟨⟨_, rfl⟩, by simp, by simp⟩
theorem witness_InstructionsNeverChangeInputs : (∃ t, exec (.skp 0) State.reset = .next t) ∧ (∀ x, Instr.skp 0 ≠ .ldVxK x) ∧
    ∀ x nn, Instr.skp 0 ≠ .rnd x nn := ⟨⟨_, rfl⟩, by simp, by simp⟩
theorem witness_ProgramCounterAdvance : (∃ t, exec (.ldVxK 3) State.reset = .next t) ∧ writesPc (.ldVxK 3) = false ∧
    isSkip (.ldVxK 3) = false ∧ (∃ t, exec (.skp 3) State.reset = .next t) ∧ writesPc (.skp 3) = false ∧
    isSkip (.skp 3) = true := ⟨⟨_, rfl⟩, rfl, rfl, ⟨_, rfl⟩, rfl, rfl⟩

theorem witness_InitialiseSetsEverything :
    State.reset.par.fontBase + (List.replicate 4096 (0 : Byte)).length ≤ 4096 ∧
      4096 < State.reset.par.fontBase + (List.replicate 4097 (0 : Byte)).length := by
  simp only [List.length_replicate]
  decide
theorem witness_InitialiseWithDefaultsIsReset : (regs [(5, 9)]).par = Config.Params.default := rfl
/-- V-LOAD-2, V-LOAD-3. -/
theorem witness_LoadProgramCopiesImage :
    Memory.wf loaded.mem ∧ 0x200 + (List.replicate 3584 (0 : Byte)).length ≤ 4096 ∧
      4096 < 0x200 + (List.replicate 3585 (0 : Byte)).length := by
  simp only [List.length_replicate]
  decide
theorem witness_TimerTickCountsDown : 0 < ((State.reset.setDt 1).setSt 1).dt.toNat ∧ 0 < ((State.reset.setDt 1).setSt 1).st.toNat ∧
    State.reset.dt.toNat = 0 ∧ State.reset.st.toNat = 0 := by decide
theorem witness_KeyEventsSetKey : handles (.keyPress 1) State.reset (fun t _ => t.key == 1) ∧
    handles (.keyPress 16) State.reset (fun t _ => t.key == 16) ∧
    refuses (.keyPress 0) State.reset (.keyCodeOutOfRange 0) ∧
    refuses (.keyPress 17) State.reset (.keyCodeOutOfRange 17) := by decide
theorem witness_RendererEvents : handles (.readDisplay 2047) State.reset (fun _ o => o == .cell false) ∧
    refuses (.readDisplay 2048) State.reset (.displayIndexOutOfRange 2048) := by decide

theorem witness_AddWithCarry : (14 : Nibble) ≠ 15 := by decide
theorem witness_SubtractSetsNotBorrow : (14 : Nibble) ≠ 15 := by decide
theorem witness_SubtractReversed : (14 : Nibble) ≠ 15 := by decide
theorem witness_ShiftRight : (14 : Nibble) ≠ 15 := by decide
theorem witness_ShiftLeft : (14 : Nibble) ≠ 15 := by decide
theorem witness_RandomMasked : (0xF0 : Byte).getLsbD 3 = false := by decide

theorem witness_CallPushesItsAddress :
    (State.reset.setStk (List.replicate 15 0x200)).stk.length < State.reset.par.stackDepth ∧
      State.reset.par.stackDepth ≤ (State.reset.setStk (List.replicate 16 0x200)).stk.length := by decide
theorem witness_ReturnPopsTheStack : (State.reset.setStk [0x210]).stk = [] ++ [0x210] ∧ State.reset.stk = [] := ⟨rfl, rfl⟩
theorem witness_ReturnUndoesCall : State.reset.stk.length < State.reset.par.stackDepth ∧
    ∃ t, exec (.call 0xFFF) State.reset = .next t ∧ (t.setDt 9).stk = t.stk := ⟨by decide, _, rfl, rfl⟩

theorem witness_BcdStore : Memory.wf (State.reset.setI 0xFFD).mem ∧ (State.reset.setI 0xFFD).i.toNat + 2 ≤ 4095 ∧
    4095 < (State.reset.setI 0xFFE).i.toNat + 2 := by decide
theorem witness_BlockStore : Memory.wf loaded.mem ∧ (loaded.setI 0xFF0).i.toNat + (15 : Nibble).toNat ≤ 4095 ∧
    (15 : Nibble).toNat ≤ (15 : Nibble).toNat ∧ 4095 < (loaded.setI 0xFF1).i.toNat + (15 : Nibble).toNat := by decide
theorem witness_BlockLoad : (loaded.setI 0xFF1).i.toNat + (14 : Nibble).toNat ≤ 4095 ∧
    (14 : Nibble).toNat ≤ (14 : Nibble).toNat ∧ (14 : Nibble).toNat < (15 : Nibble).toNat ∧
    4095 < (loaded.setI 0xFF2).i.toNat + (14 : Nibble).toNat := by decide
/-- V-ST-5. -/
theorem witness_StoreIsSeenByFetch : Memory.wf ((regs [(0, 0x12)]).setI 0x202).mem ∧
    ∃ t, exec (.ldMemVx 1) ((regs [(0, 0x12)]).setI 0x202) = .next t ∧ (1 : Nibble).toNat = (0 : Nibble).toNat + 1 ∧
      (1 : Nibble).toNat ≤ (1 : Nibble).toNat ∧
      ((regs [(0, 0x12)]).setI 0x202).i.toNat + (0 : Nibble).toNat = t.pc.toNat := ⟨by decide, _, rfl, rfl, by decide, rfl⟩

theorem witness_DrawSprite : (State.reset.setI 0xFFD).i.toNat + (3 : Nibble).toNat - 1 ≤ 4095 ∧ (3 : Nibble) ≠ 0 ∧
    4095 < (State.reset.setI 0xFFE).i.toNat + (3 : Nibble).toNat - 1 := by decide
/-- V-DRW-7: no row is drawn, `I` is not looked at, `VF` is reset and the redraw requested. -/
theorem witness_DrawSprite_no_rows : runs ((regs [(15, 1)]).setI 0xFFFF) 0xD010
    (fun t => t.reg 15 == 0 && t.rdrp && t.dq == [] && t.pc == 0x202) := by decide
/-- S6: two draws of one sprite. -/
theorem witness_DrawTwiceRestoresDisplay : (0 : Nibble) ≠ 15 ∧ (1 : Nibble) ≠ 15 ∧
    ∃ t, exec (.drw 0 1 5) State.reset = .next t ∧ (t.dq ≠ [] ∧ ∀ k ∈ t.dq, Display.lit State.reset.disp k = false) :=
  ⟨by decide, by decide, _, rfl, by decide, fun k _ => Display.lit_clear k⟩

theorem witness_KeyWait : State.reset.key.val = 0 ∧ (State.reset.setKey 16).key.val ≠ 0 := by decide

end Sys2Proof.Tests
end

section
/-! SUPPORT. What a completing instruction leaves: one inversion lemma for `exec`, which the whole-machine rules about who changes what
are read off. -/

namespace Sys2Proof.Machine

/-- The states an instruction can complete with, one constructor per kind of write: from `s`, `Effect s i t` allows `i` to leave `t`.
Instructions that write the same pieces of state share a constructor. -/
inductive Effect (s : State) : Instr → State → Prop where
  /-- A skip (41 R128) chooses between the two ways to advance. -/
  | skip {i : Instr} (taken : Bool) (hi : isSkip i = true) : Effect s i (s.skipIf taken)
  /-- `JP nnn` and `JP V0, nnn` write `PC` and nothing else. -/
  | jump {i : Instr} (target : Word) (hi : writesPc i = true) : Effect s i (s.setPc target)
  /-- `CALL nnn` with room on the stack (41 R125). -/
  | call (nnn : Addr12) (room : s.stk.length < s.par.stackDepth) :
      Effect s (.call nnn) ((s.setStk (s.stk ++ [s.pc])).setPc (zextAddr nnn))
  /-- `RET` with an entry to pop (41 R127). -/
  | ret (stk : List Word) (w : Word) (top : s.stk = stk ++ [w]) : Effect s .ret ((s.setStk stk).setPc (w + 2))
  /-- Only the destination register is written (spec file 40, 44 R182). -/
  | load {i : Instr} {x : Nibble} (b : Byte) (hd : destination i = some x) : Effect s i (s.setReg x b).advance
  /-- A flag in `VF`, then the destination register (00 R11, 10 R45). -/
  | flagged {i : Instr} {x : Nibble} (flag : Bool) (b : Byte) (hv : writesVf i = true) (hd : destination i = some x) :
      Effect s i (s.flagThenReg flag x b).advance
  /-- `RND Vx, nn` draws a byte (40 R111). -/
  | random (x : Nibble) (nn : Byte) :
      Effect s (.rnd x nn) ((s.setReg x (s.drawn &&& nn)).setDraws (s.draws + 1)).advance
  /-- `CLS` (43 R160). -/
  | clear : Effect s .cls ((s.setScreen Display.clear []).setClrp true).advance
  /-- `DRW Vx, Vy, n` (43 R161). -/
  | draw (x y n : Nibble) (fits : n.toNat = 0 ∨ s.i.toNat + n.toNat - 1 ≤ 4095) :
      Effect s (.drw x y n)
        (s.composite (s.drawnCells x y (Memory.readBytes s.mem s.i.toNat n.toNat))).advance
  /-- `LD I, nnn` (42 R140). -/
  | index (nnn : Addr12) : Effect s (.ldI nnn) (s.setI (zextAddr nnn)).advance
  /-- `ADD I, Vx`, with its flag (42 R141). -/
  | indexAdd (x : Nibble) :
      Effect s (.addI x) ((s.setReg 15 (flagByte (indexFlag s.i (s.reg x)))).setI (indexSum s.i (s.reg x))).advance
  /-- `LD F, Vx` (42 R142). -/
  | glyph (x : Nibble) : Effect s (.ldF x) (s.setI (s.glyphAddr (s.reg x))).advance
  /-- `LD B, Vx` inside memory (42 R143). -/
  | storeDigits (x : Nibble) (fits : s.i.toNat + 2 ≤ 4095) :
      Effect s (.ldB x) (s.setMem (Memory.writeBytes s.mem s.i.toNat (bcdDigits (s.reg x)))).advance
  /-- `LD [I], Vx` inside memory (42 R144). -/
  | storeRegs (x : Nibble) (fits : s.i.toNat + x.toNat ≤ 4095) :
      Effect s (.ldMemVx x) (s.setMem (Memory.writeBytes s.mem s.i.toNat (s.regsTo x))).advance
  /-- `LD Vx, [I]` inside memory (42 R145). -/
  | loadRegs (x : Nibble) (fits : s.i.toNat + x.toNat ≤ 4095) :
      Effect s (.ldVxMem x)
        (s.setRegs (loadRegsTo s.v x (Memory.readBytes s.mem s.i.toNat (x.toNat + 1)))).advance
  /-- `LD Vx, K` with no key pressed (44 R185). -/
  | keyWait (x : Nibble) (released : s.key = 0) : Effect s (.ldVxK x) (s.setWait true)
  /-- `LD Vx, K` with a key pressed (44 R185). -/
  | keyRead (x : Nibble) (pressed : s.key ≠ 0) : Effect s (.ldVxK x) ((s.setReg x s.keyByte).setWait false).advance
  /-- `LD DT, Vx` (44 R183). -/
  | delay (x : Nibble) : Effect s (.ldDtVx x) (s.setDt (s.reg x)).advance
  /-- `LD ST, Vx` (44 R187). -/
  | sound (x : Nibble) : Effect s (.ldStVx x) (s.setSt (soundValue (s.reg x))).advance

/-- The shape of an instruction whose one check passes or raises: completing, it stands in the state the passed check leads to. -/
theorem effect_of_next_or_raise {i : Instr} {s t u : State} {c : FatalCause} {r : Result} {p q : Prop}
    (hr : (p ∧ r = .next u) ∨ (q ∧ r = s.raise c)) (h : r = .next t) (he : p → Effect s i u) : Effect s i t := by
  rcases hr with ⟨hp, e⟩ | ⟨-, e⟩
  · cases e.symm.trans h
    exact he hp
  · exact absurd (e.symm.trans h) (State.raise_ne_next s t c)

/-- Every instruction that completes does so by one of the effects. -/
theorem exec_effect {i : Instr} {s t : State} (h : exec i s = .next t) : Effect s i t := by
  cases i with
  | cls => cases h; exact .clear
  | ret =>
    rcases execRet_cases s with ⟨stk, w, top, e⟩ | ⟨-, e⟩
    · cases e.symm.trans h
      exact .ret stk w top
    · exact absurd (e.symm.trans h) (State.raise_ne_next s t _)
  | call nnn => exact effect_of_next_or_raise (execCall_cases nnn s) h (.call nnn)
  | jp _ | jpV0 _ => cases h; exact .jump _ rfl
  | seImm _ _ | sneImm _ _ | seReg _ _ | sneReg _ _ | skp _ | sknp _ => cases h; exact .skip _ rfl
  | ldImm _ _ | addImm _ _ | ldReg _ _ | orReg _ _ | andReg _ _ | xorReg _ _ | ldVxDt _ => cases h; exact .load _ rfl
  | addReg _ _ | sub _ _ | shr _ _ | subn _ _ | shl _ _ => cases h; exact .flagged _ _ rfl rfl
  | rnd x nn => cases h; exact .random x nn
  | drw x y n =>
    rcases execDrw_cases x y n s with ⟨fits, e⟩ | ⟨-, -, e⟩
    · cases e.symm.trans h
      exact .draw x y n fits
    · exact absurd (e.symm.trans h) (State.raise_ne_next s t _)
  | ldI nnn => cases h; exact .index nnn
  | addI x => cases h; exact .indexAdd x
  | ldF x => cases h; exact .glyph x
  | ldB x => exact effect_of_next_or_raise (execLdB_cases x s) h (.storeDigits x)
  | ldMemVx x => exact effect_of_next_or_raise (execLdMemVx_cases x s) h (.storeRegs x)
  | ldVxMem x => exact effect_of_next_or_raise (execLdVxMem_cases x s) h (.loadRegs x)
  | ldVxK x =>
    rcases execLdVxK_cases x s with ⟨hk, e⟩ | ⟨hk, e⟩ <;> cases e.symm.trans h
    · exact .keyWait x hk
    · exact .keyRead x hk
  | ldDtVx x => cases h; exact .delay x
  | ldStVx x => cases h; exact .sound x

/-! What each effect keeps. A constructor that does not write the piece of state in question keeps it by the frame lemmas of the state's
updates; the others are named. -/

theorem State.reg_setReg_of_ne {s : State} {x r : Nibble} {b : Byte} (h : r ≠ x) : (s.setReg x b).reg r = s.reg r := by
  rw [State.reg_setReg, if_neg h]

/-- 10 R44, R45: besides the flag writers only a destination 15 reaches `VF`; a block load reaches it with `x = 15` only. -/
theorem Effect.vf_kept {i : Instr} {s t : State} (h : Effect s i t) (hv : writesVf i = false)
    (hd : destination i ≠ some 15) : t.reg 15 = s.reg 15 := by
  cases h with
  | load _ hx => exact State.reg_setReg_of_ne fun e => hd (e ▸ hx)
  | random x | keyRead x => exact State.reg_setReg_of_ne fun e => hd (congrArg some e.symm)
  | loadRegs x _ =>
    have hne : x ≠ 15 := by rintro rfl; exact hd rfl
    have above : ¬ (15 : Nibble).toNat ≤ x.toNat := by bv_omega
    rw [State.advance_reg, State.reg_loadRegsTo, if_neg above]
  | flagged _ _ hw => exact absurd (hw.symm.trans hv) nofun
  | draw | indexAdd => cases hv
  | _ => simp

/-- 10 R23, 42 R146. -/
theorem Effect.i_kept {i : Instr} {s t : State} (h : Effect s i t) (hld : ∀ nnn, i ≠ .ldI nnn)
    (hadd : ∀ x, i ≠ .addI x) (hglyph : ∀ x, i ≠ .ldF x) : t.i = s.i := by
  cases h with
  | index nnn => exact absurd rfl (hld nnn)
  | indexAdd x => exact absurd rfl (hadd x)
  | glyph x => exact absurd rfl (hglyph x)
  | _ => simp

/-- 10 R32, R33. -/
theorem Effect.screen_kept {i : Instr} {s t : State} (h : Effect s i t) (hcls : i ≠ .cls)
    (hdrw : ∀ x y n, i ≠ .drw x y n) : t.disp = s.disp ∧ t.dq = s.dq := by
  cases h with
  | clear => exact absurd rfl hcls
  | draw x y n => exact absurd rfl (hdrw x y n)
  | _ => simp

/-- 10 R34: a screen clear is requested by `CLS` only. -/
theorem Effect.clrp_kept_or_set {i : Instr} {s t : State} (h : Effect s i t) :
    t.clrp = s.clrp ∨ (i = .cls ∧ t.clrp = true) := by
  cases h with
  | clear => exact .inr ⟨rfl, rfl⟩
  | _ => simp

/-- 10 R34: a redraw is requested by `DRW` only. -/
theorem Effect.rdrp_kept_or_set {i : Instr} {s t : State} (h : Effect s i t) :
    t.rdrp = s.rdrp ∨ ((∃ x y n, i = .drw x y n) ∧ t.rdrp = true) := by
  cases h with
  | draw x y n => exact .inr ⟨⟨x, y, n, rfl⟩, rfl⟩
  | _ => simp

/-- 10 R36, R38 and the model's own fields (log entries 1, 5): no effect writes these. -/
theorem Effect.inputs_kept {i : Instr} {s t : State} (h : Effect s i t) :
    t.key = s.key ∧ t.par = s.par ∧ t.faulted = s.faulted ∧ t.script = s.script := by
  cases h <;> simp

/-- 10 R37. -/
theorem Effect.wait_kept {i : Instr} {s t : State} (h : Effect s i t) (hk : ∀ x, i ≠ .ldVxK x) : t.wait = s.wait := by
  cases h with
  | keyWait x | keyRead x => exact absurd rfl (hk x)
  | _ => simp

/-- 10 R39. -/
theorem Effect.draws_kept {i : Instr} {s t : State} (h : Effect s i t) (hr : ∀ x nn, i ≠ .rnd x nn) :
    t.draws = s.draws := by
  cases h with
  | random x nn => exact absurd rfl (hr x nn)
  | _ => simp

/-- 10 R26. -/
theorem Effect.pc_advance {i : Instr} {s t : State} (h : Effect s i t) (hw : writesPc i = false) :
    (isSkip i = true → t.pc = s.pc + 2 ∨ t.pc = s.pc + 4) ∧
      (isSkip i = false → t.pc = s.pc + 2 ∨ ((∃ x, i = .ldVxK x) ∧ s.key = 0 ∧ t.pc = s.pc)) := by
  cases h with
  | skip taken hs =>
    refine ⟨fun _ => ?_, fun hn => absurd (hs.symm.trans hn) nofun⟩
    cases taken
    · exact .inl rfl
    · exact .inr rfl
  | jump _ hj => exact absurd (hj.symm.trans hw) nofun
  | call | ret => cases hw
  | keyWait x released => exact ⟨nofun, fun _ => .inr ⟨⟨x, rfl⟩, released, rfl⟩⟩
  | _ => simp

/-! A recorded fault and the events (10 R38, 60 R206, R209). -/

/-- A `Step` of a core that is `FAULTED` reports the recorded fault again and changes nothing (30 R70 step 1). -/
theorem cycle_of_faulted {s : State} {r : FatalReport} (h : s.faulted = some r) : cycle s = .fault (.fatal r s) := by
  simp only [cycle, h]

theorem afterEvent_step (s : State) : afterEvent .step s = s.after (cycle s) :=
  congrArg s.after (dropOutput_stepEvent s)

theorem afterEvent_step_of_faulted {s : State} {r : FatalReport} (h : s.faulted = some r) : afterEvent .step s = s := by
  rw [afterEvent_step, cycle_of_faulted h, State.after]

/-- A key code outside 1 to 16 leaves the state as it is (44 R186). -/
theorem afterEvent_keyPress_faulted (code : Nat) (s : State) : (afterEvent (.keyPress code) s).faulted = s.faulted := by
  simp only [afterEvent, handle, keyPress]
  split <;> rfl

theorem afterEvent_readDisplay (k : Nat) (s : State) : afterEvent (.readDisplay k) s = s := by
  simp only [afterEvent, handle, readDisplay]
  split <;> rfl

/-- An image that does not fit leaves the state as it is (70 R234). -/
theorem afterEvent_loadProgram_faulted (bytes : List Byte) (start : Nat) (s : State) :
    (afterEvent (.loadProgram bytes start) s).faulted = s.faulted := by
  simp only [afterEvent, handle, loadProgram]
  split <;> rfl

/-- 70 R231: `Initialize` with a font that fits. -/
theorem afterEvent_initialise_faulted {s : State} {font : List Byte} (start delay sound index : Nat)
    (fits : s.par.fontBase + font.length ≤ Config.memSize) :
    (afterEvent (.initialise start delay sound index font) s).faulted = none := by
  simp only [afterEvent, handle, initialise, if_pos fits, dropOutput, State.after]

/-! Memory at reset (10 R46, 70 R233). -/

/-- The default font has a byte at each of its 80 addresses, which is what an unlisted address reads as (70 R233). -/
theorem Memory.some_unlisted {a : Nat} (h : a < 80) : some (Memory.unlisted a) = Config.fontData[a]? := by
  have hlen : a < Config.fontData.length := h
  rw [Memory.unlisted_eq, List.getElem?_eq_getElem hlen, Option.getD_some]

/-! The obligations about the machine's state (spec file 10). -/

/-- Settles O14: by the events, each of which keeps the recorded fault but `Initialize`. -/
theorem onlyInitialiseClearsFaulted : Obligations.OnlyInitialiseClearsFaulted := by
  intro s r hf
  refine ⟨fun e he => ?_, fun start delay sound index font => afterEvent_initialise_faulted start delay sound index⟩
  cases e with
  | step => rw [afterEvent_step_of_faulted hf, hf]
  | keyPress code => rw [afterEvent_keyPress_faulted, hf]
  | readDisplay k => rw [afterEvent_readDisplay, hf]
  | loadProgram bytes start => rw [afterEvent_loadProgram_faulted, hf]
  | initialise start delay sound index font => exact absurd rfl (he start delay sound index font)
  | timerTick | keyRelease | ackClear | ackRedraw | drainDirty => exact hf

/-- Settles O18, by the effects. -/
theorem flagWritersAreComplete : Obligations.FlagWritersAreComplete :=
  fun _ _ _ h => (exec_effect h).vf_kept

/-- Settles O19, by the effects. -/
theorem indexChangedOnlyByIndexInstructions : Obligations.IndexChangedOnlyByIndexInstructions :=
  fun _ _ _ h => (exec_effect h).i_kept

/-- Settles O21, by the effects, one piece of the screen's state after the other. -/
theorem screenWriters : Obligations.ScreenWriters := by
  intro i s t h
  have eff := exec_effect h
  exact ⟨eff.screen_kept, eff.clrp_kept_or_set, eff.rdrp_kept_or_set⟩

/-- Settles O22, by the effects. -/
theorem instructionsNeverChangeInputs : Obligations.InstructionsNeverChangeInputs := by
  intro i s t h
  have eff := exec_effect h
  obtain ⟨key, par, faulted, script⟩ := eff.inputs_kept
  exact ⟨key, par, faulted, script, eff.wait_kept, eff.draws_kept⟩

/-- Settles O23, by the effects. -/
theorem programCounterAdvance : Obligations.ProgramCounterAdvance :=
  fun _ _ _ h => (exec_effect h).pc_advance

/-- Settles O13: an idle machine's step is a `Step`, which reports the recorded fault. -/
theorem faultedStepReportsAgain : Obligations.FaultedStepReportsAgain := by
  intro s r hf hs
  exact ⟨(step_of_idle hs).trans (cycle_of_faulted hf), afterEvent_step_of_faulted hf⟩

/-- Settles O16: nothing is listed, pushed, awaited or recorded at reset. -/
theorem resetIsWellFormed : Obligations.ResetIsWellFormed where
  memory := Memory.wf_nil
  stack := Nat.zero_le _
  waiting := nofun
  faulted := nofun

/-- Settles O24: the fields by definition, the registers and cells by their reads, memory by what an unlisted address reads as. -/
theorem resetValues : Obligations.ResetValues := by
  have regs : ∀ x, State.reset.reg x = 0 := State.setRegs_zero_reg State.reset
  have cells : ∀ k, Display.lit State.reset.disp k = false := Display.lit_clear
  have font : ∀ a, a < 80 → some (Memory.read State.reset.mem a) = Config.fontData[a]? := fun a => Memory.some_unlisted
  have rest : ∀ a, 80 ≤ a → Memory.read State.reset.mem a = 0 := fun a => Memory.unlisted_high
  exact ⟨regs, rfl, rfl, rfl, cells, rfl, rfl, rfl, rfl, rfl, rfl, rfl, rfl, rfl, font, rest⟩

end Sys2Proof.Machine
end

section
/-! SUPPORT. Memory, the stack and the machine's invariant (spec file 20): what each effect keeps of memory and the stack, what a step
leaves standing whether it completes or faults, and what the next fetch sees of a store. -/

namespace Sys2Proof.Machine

/-! Memory and the stack under the effects. -/

/-- 20 R64: memory is kept by every effect but the two stores. -/
theorem Effect.mem_kept {i : Instr} {s t : State} (h : Effect s i t) (hdigits : ∀ x, i ≠ .ldB x)
    (hregs : ∀ x, i ≠ .ldMemVx x) : t.mem = s.mem := by
  cases h with
  | storeDigits x => exact absurd rfl (hdigits x)
  | storeRegs x => exact absurd rfl (hregs x)
  | _ => simp

/-- 10 R28: the stack is kept by every effect but `CALL`'s and `RET`'s. -/
theorem Effect.stk_kept {i : Instr} {s t : State} (h : Effect s i t) (hcall : ∀ nnn, i ≠ .call nnn)
    (hret : i ≠ .ret) : t.stk = s.stk := by
  cases h with
  | call nnn => exact absurd rfl (hcall nnn)
  | ret => exact absurd rfl hret
  | _ => simp

/-- 20 R50: a store that completes ends at or below 4095, so it keeps the canonical form. -/
theorem Effect.mem_wf {i : Instr} {s t : State} (h : Effect s i t) (hm : Memory.wf s.mem) : Memory.wf t.mem := by
  cases h with
  | storeDigits x fits => exact Memory.wf_writeBytes hm (by rw [length_bcdDigits, Config.memSize]; omega)
  | storeRegs x fits => exact Memory.wf_writeBytes hm (by rw [State.length_regsTo, Config.memSize]; omega)
  | _ => exact hm

/-- 10 R28: a `CALL` completes only with room for its entry. -/
theorem Effect.stack_le {i : Instr} {s t : State} (h : Effect s i t) (hs : s.stk.length ≤ s.par.stackDepth) :
    t.stk.length ≤ t.par.stackDepth := by
  cases h with
  | call nnn room => simpa using room
  | ret stk w top =>
    rw [top, List.length_append] at hs
    exact Nat.le_of_add_right_le hs
  | _ => exact hs

/-! An instruction completes or raises a possible fault. -/

/-- The shape of an instruction whose one check passes or raises, as `effect_of_next_or_raise` has it, with no outcome assumed. -/
theorem next_or_raise_possible {s u : State} {c : FatalCause} {r : Result} {p q : Prop}
    (hr : (p ∧ r = .next u) ∨ (q ∧ r = s.raise c)) (hc : q → c.possible) :
    (∃ t, r = .next t) ∨ ∃ c, c.possible ∧ r = s.raise c :=
  hr.imp (fun ⟨_, e⟩ => ⟨u, e⟩) (fun ⟨hq, e⟩ => ⟨c, hc hq, e⟩)

/-- 60 R200, R204: an instruction completes, or it takes a fatal fault, and an address it then reports is above 4095. -/
theorem exec_next_or_raise (i : Instr) (s : State) :
    (∃ t, exec i s = .next t) ∨ ∃ c, c.possible ∧ exec i s = s.raise c := by
  cases i with
  | ret =>
    rcases execRet_cases s with ⟨_, _, -, e⟩ | ⟨-, e⟩
    · exact .inl ⟨_, e⟩
    · exact .inr ⟨.stackUnderflow, trivial, e⟩
  | call nnn => exact next_or_raise_possible (execCall_cases nnn s) fun _ => trivial
  | drw x y n =>
    rcases execDrw_cases x y n s with ⟨-, e⟩ | ⟨-, above, e⟩
    · exact .inl ⟨_, e⟩
    · exact .inr ⟨.addressOutOfRange _, above, e⟩
  | ldB x => exact next_or_raise_possible (execLdB_cases x s) id
  | ldMemVx x => exact next_or_raise_possible (execLdMemVx_cases x s) id
  | ldVxMem x => exact next_or_raise_possible (execLdVxMem_cases x s) id
  | ldVxK x => rcases execLdVxK_cases x s with ⟨-, e⟩ | ⟨-, e⟩ <;> exact .inl ⟨_, e⟩
  | _ => exact .inl ⟨_, rfl⟩

/-! The invariant is kept by a `Step`. -/

/-- The invariant looks at six pieces of the state. -/
theorem Inv.congr {s t : State} (h : Inv s) (hm : t.mem = s.mem := by rfl) (hs : t.stk = s.stk := by rfl)
    (hp : t.par = s.par := by rfl) (hc : t.pc = s.pc := by rfl) (hw : t.wait = s.wait := by rfl)
    (hf : t.faulted = s.faulted := by rfl) : Inv t where
  memory := hm ▸ h.memory
  stack := by rw [hs, hp]; exact h.stack
  waiting := by rw [hw, State.fetch_congr hc hm]; exact h.waiting
  faulted := by rw [hf, hc]; exact h.faulted

/-- 60 R206: taking a possible fault records it at `PC` and changes nothing else. -/
theorem Inv.setFaulted {s : State} (h : Inv s) {c : FatalCause} (hc : c.possible) :
    Inv (s.setFaulted (some ⟨c, s.pc⟩)) where
  memory := h.memory
  stack := h.stack
  waiting := h.waiting
  faulted := by
    rintro r ⟨⟩
    exact ⟨rfl, hc⟩

/-- 10 R37: an instruction that leaves the core waiting is the `LD Vx, K` at `PC`, and `PC` still addresses it. Any other leaves `WAIT`
as it is, and with `WAIT` set the invariant says no other stands at `PC`. -/
theorem Inv.waiting_of_exec {s t : State} {w : Word} {i : Instr} (h : Inv s) (hw : s.fetch = .ok w)
    (hd : decode w = .ok i) (he : exec i s = .next t) (ht : t.wait = true) :
    ∃ w x, t.fetch = .ok w ∧ decode w = .ok (.ldVxK x) := by
  by_cases key : ∃ x, i = .ldVxK x
  · obtain ⟨x, rfl⟩ := key
    rcases execLdVxK_cases x s with ⟨-, e⟩ | ⟨-, e⟩ <;> cases e.symm.trans he
    · exact ⟨w, x, (State.fetch_congr rfl rfl).trans hw, hd⟩
    · cases ht
  · have kept : t.wait = s.wait := (exec_effect he).wait_kept fun x e => key ⟨x, e⟩
    obtain ⟨w', x, hw', hd'⟩ := h.waiting (kept ▸ ht)
    cases hw.symm.trans hw'
    cases hd.symm.trans hd'
    exact absurd ⟨x, rfl⟩ key

/-- The instruction at `PC`, completing, keeps the invariant. -/
theorem Inv.next {s t : State} {w : Word} {i : Instr} (h : Inv s) (hf : s.faulted = none) (hw : s.fetch = .ok w)
    (hd : decode w = .ok i) (he : exec i s = .next t) : Inv t := by
  have eff := exec_effect he
  obtain ⟨-, -, faulted, -⟩ := eff.inputs_kept
  exact ⟨eff.mem_wf h.memory, eff.stack_le h.stack, h.waiting_of_exec hw hd he,
    fun _ hr => nomatch (faulted.trans hf).symm.trans hr⟩

/-- 30 R70: whatever a `Step` does, the core stands in a state of the invariant after it. -/
theorem Inv.after_cycle {s : State} (h : Inv s) : Inv (s.after (cycle s)) := by
  rcases cycle_cases s with ⟨r, -, e⟩ | ⟨-, c, he, e⟩ | ⟨-, w, -, -, e⟩ | ⟨hf, w, i, hw, hd, e⟩ <;> rw [e]
  · exact h
  · obtain ⟨a, rfl, above⟩ := State.fetch_error he
    exact h.setFaulted above
  · exact h
  · rcases exec_next_or_raise i s with ⟨t, e⟩ | ⟨c, hc, e⟩
    · rw [e]; exact h.next hf hw hd e
    · rw [e]; exact h.setFaulted hc

/-! The invariant is kept by every event (00 R13). -/

/-- 70 R231: a font that fits lies below 4096; one that does not is refused. -/
theorem Inv.after_initialise {s : State} (h : Inv s) (start delay sound index : Nat) (font : List Byte) :
    Inv (afterEvent (.initialise start delay sound index font) s) := by
  simp only [afterEvent, handle, initialise]
  split
  · rename_i fits
    exact ⟨Memory.wf_writeBytes Memory.wf_cleared fits, Nat.zero_le _, nofun, nofun⟩
  · exact h

/-- 70 R234: an image that fits lies below 4096, and its load ends a key-wait; one that does not changes nothing. -/
theorem Inv.after_loadProgram {s : State} (h : Inv s) (bytes : List Byte) (start : Nat) :
    Inv (afterEvent (.loadProgram bytes start) s) := by
  simp only [afterEvent, handle, loadProgram]
  split
  · rename_i fits
    exact ⟨Memory.wf_writeBytes h.memory fits, h.stack, nofun, h.faulted⟩
  · exact h

/-- 44 R186: a key code that is none leaves the state as it is. -/
theorem Inv.after_keyPress {s : State} (h : Inv s) (code : Nat) : Inv (afterEvent (.keyPress code) s) := by
  simp only [afterEvent, handle, keyPress]
  split
  · exact h.congr
  · exact h

/-- 00 R13: every event, also one that breaks its contract, leaves the core in a state of the invariant. -/
theorem Inv.after_event {s : State} (h : Inv s) (e : Event) : Inv (afterEvent e s) := by
  cases e with
  | step => rw [afterEvent_step]; exact h.after_cycle
  | keyPress code => exact h.after_keyPress code
  | readDisplay k => rw [afterEvent_readDisplay]; exact h
  | initialise start delay sound index font => exact h.after_initialise start delay sound index font
  | loadProgram bytes start => exact h.after_loadProgram bytes start
  | timerTick | keyRelease | ackClear | ackRedraw | drainDirty => exact h.congr

/-- The step's outcome, taken from the state it acts on: `s` itself, or `s` with the event off its script. -/
theorem Inv.after_step {s : State} (h : Inv s) : ∃ u : State, Inv (u.after (step s)) := by
  cases hs : s.script with
  | nil => exact ⟨s, by rw [step_of_idle hs]; exact h.after_cycle⟩
  | cons e es => exact ⟨s.setScript es, by rw [step_of_event hs]; exact h.congr.after_event e⟩

/-! What a fetch reads. -/

/-- 20 R55, R57: a `PC` up to 4094, odd or even, fetches its two bytes. -/
theorem State.fetch_of_le {s : State} (h : s.pc.toNat ≤ 4094) :
    s.fetch = .ok (wordOfBytes (Memory.read s.mem s.pc.toNat) (Memory.read s.mem (s.pc.toNat + 1))) := by
  rcases s.fetch_cases with ⟨-, e⟩ | ⟨hp, -⟩ | ⟨hp, -⟩
  · exact e
  all_goals omega

/-- 42 R144: after `V[0]` to `V[x]` are stored from `a`, the byte at `a + j` is `V[j]`. -/
theorem Memory.read_writeBytes_regsTo {m : Memory} (hm : Memory.wf m) (s : State) (a : Nat) {x j : Nibble}
    (hj : j.toNat ≤ x.toNat) : Memory.read (Memory.writeBytes m a (s.regsTo x)) (a + j.toNat) = s.reg j := by
  have inside : a ≤ a + j.toNat ∧ a + j.toNat < a + (s.regsTo x).length := by
    rw [State.length_regsTo]; omega
  rw [Memory.read_writeBytes hm, if_pos inside, Nat.add_sub_cancel_left, State.getElem?_regsTo s hj, Option.getD_some]

/-! The obligations about memory (spec file 20). -/

/-- Settles O15: the state after a step is a state of the invariant, and a next state and a fatal fault's state are that state. -/
theorem stepKeepsMachineWellFormed : Obligations.StepKeepsMachineWellFormed := by
  intro s t h
  obtain ⟨u, after⟩ := h.after_step
  refine ⟨fun e => ?_, fun r e => ?_⟩ <;> rw [e] at after <;> exact after

/-- Settles O20, by the effects. -/
theorem memoryAndStackWriters : Obligations.MemoryAndStackWriters :=
  fun _ _ _ h => ⟨(exec_effect h).mem_kept, (exec_effect h).stk_kept⟩

/-- Settles O8: the fetched word is made of its two bytes. -/
theorem fetchIsBigEndian : Obligations.FetchIsBigEndian :=
  fun _ h => ⟨_, State.fetch_of_le h, toNat_wordOfBytes _ _⟩

/-- Settles O53: the two bytes that the fetch reads are those stored. -/
theorem storeIsSeenByFetch : Obligations.StoreIsSeenByFetch := by
  intro x j k s t hm h hk hx hpc
  rcases execLdMemVx_cases x s with ⟨fits, e⟩ | ⟨-, e⟩
  · obtain ⟨w, hw, value⟩ := fetchIsBigEndian t (by omega)
    refine ⟨w, hw, ?_⟩
    cases e.symm.trans h
    rw [value, ← hpc, Nat.add_assoc, ← hk, State.advance_mem, State.setMem_mem,
      Memory.read_writeBytes_regsTo hm s _ (by omega), Memory.read_writeBytes_regsTo hm s _ hx]
  · exact absurd (e.symm.trans h) (State.raise_ne_next s t _)

end Sys2Proof.Machine
end

section
/-! SUPPORT. The decoder and the encoder (spec file 30): a pattern as mask and match, the disjoint rows, and an encoded instruction
decoded. -/

namespace Sys2Proof

/-! A pattern as mask and match (30 R72). -/

/-- Two words are equal when their four nibbles are. -/
theorem nibbles_inj {c x y n c' x' y' n' : Nibble} :
    (c ++ x ++ y ++ n : BitVec 16) = c' ++ x' ++ y' ++ n' ↔ c = c' ∧ x = x' ∧ y = y' ∧ n = n' := by
  constructor
  · intro h
    have fields := congrArg fieldsOf h
    rw [fieldsOf_nibbles, fieldsOf_nibbles, Fields.mk.injEq] at fields
    obtain ⟨hc, hx, hy, hn, -, -⟩ := fields
    exact ⟨hc, hx, hy, hn⟩
  · rintro ⟨rfl, rfl, rfl, rfl⟩
    rfl

/-- A fixed nibble is tested by the mask 0xF. -/
theorem and_fixedMask_eq (v d : Nibble) : v &&& 0xF = d ↔ d = v := by
  rw [show (0xF : Nibble) = BitVec.allOnes 4 from rfl, BitVec.and_allOnes, eq_comm]

/-- One nibble position, fixed or wildcard. -/
theorem nibbleMatches_iff_mask (p : Option Nibble) (v : Nibble) :
    nibbleMatches p v = true ↔ v &&& nibbleMask p = nibbleValue p := by
  cases p with
  | none => simp [nibbleMatches, nibbleMask, nibbleValue]
  | some d => exact beq_iff_eq.trans (and_fixedMask_eq v d).symm

/-- Settles O4, nibble by nibble. -/
theorem patternIsMaskAndMatch : Obligations.PatternIsMaskAndMatch := by
  intro p w
  obtain ⟨c, x, y, n, rfl⟩ := word_nibbles w
  rw [Pattern.maskWord, Pattern.matchWord, BitVec.and_append, BitVec.and_append, BitVec.and_append, nibbles_inj,
    and_fixedMask_eq, ← nibbleMatches_iff_mask, ← nibbleMatches_iff_mask, ← nibbleMatches_iff_mask]
  simp only [Pattern.holds, fieldsOf_nibbles, Bool.and_eq_true, beq_iff_eq, and_assoc]

/-! The rows are disjoint (30 R75). -/

/-- A word of both patterns has both matches on the bits that both masks fix. -/
theorem Pattern.match_agree {p q : Pattern} {w : Word} (hp : p.holds w = true) (hq : q.holds w = true) :
    p.matchWord &&& q.maskWord = q.matchWord &&& p.maskWord := by
  rw [← (patternIsMaskAndMatch p w).1 hp, ← (patternIsMaskAndMatch q w).1 hq, BitVec.and_assoc, BitVec.and_assoc,
    BitVec.and_comm p.maskWord]

/-- 30 R76: of any two rows, the matches differ on a bit that both masks fix. -/
theorem opcodeTable_pairwise_differ : opcodeTable.Pairwise fun r q =>
    r.pattern.matchWord &&& q.pattern.maskWord ≠ q.pattern.matchWord &&& r.pattern.maskWord := by
  decide

/-- A later row does not match a word that an earlier one matches. -/
theorem opcodeTable_not_holds_of_lt {w : Word} {j k : Nat} {r q : Row} (hr : opcodeTable[j]? = some r)
    (hq : opcodeTable[k]? = some q) (hlt : j < k) (hrw : r.pattern.holds w = true) : q.pattern.holds w ≠ true := by
  intro hqw
  obtain ⟨hj, rfl⟩ := List.getElem?_eq_some_iff.1 hr
  obtain ⟨hk, rfl⟩ := List.getElem?_eq_some_iff.1 hq
  exact List.pairwise_iff_getElem.1 opcodeTable_pairwise_differ j k hj hk hlt (Pattern.match_agree hrw hqw)

/-- Settles O3: of two different rows one comes first. -/
theorem opcodeRowsDisjoint : Obligations.OpcodeRowsDisjoint := by
  intro w j k r q hr hq hrw hqw
  rcases Nat.lt_trichotomy j k with hlt | heq | hlt
  · exact absurd hqw (opcodeTable_not_holds_of_lt hr hq hlt hrw)
  · exact heq
  · exact absurd hrw (opcodeTable_not_holds_of_lt hq hr hlt hqw)

/-! Decoding an encoded instruction. -/

/-- 30 R75: whichever row of the table matches is the one that decodes the word. -/
theorem decode_of_row {w : Word} {k : Nat} {r : Row} (hr : opcodeTable[k]? = some r)
    (hw : r.pattern.holds w = true) : decode w = .ok (r.build (fieldsOf w)) := by
  rcases decode_cases w with ⟨q, hq, hqw, e⟩ | ⟨unmatched, -⟩
  · obtain ⟨j, hj⟩ := List.getElem?_of_mem hq
    cases opcodeRowsDisjoint w j k q r hj hr hqw hw
    cases hj.symm.trans hr
    exact e
  · exact absurd hw (by simp [unmatched r (List.mem_of_getElem? hr)])

/-- 30 R76: the encoding of an instruction matches the instruction's own row. -/
theorem encode_matches_row : ∀ i, Laws.EncodedRow.Statement i
  | .cls => Laws.EncodedRow.cls
  | .ret => Laws.EncodedRow.ret
  | .jp nnn => Laws.EncodedRow.jp nnn
  | .call nnn => Laws.EncodedRow.call nnn
  | .seImm x nn => Laws.EncodedRow.seImm x nn
  | .sneImm x nn => Laws.EncodedRow.sneImm x nn
  | .seReg x y => Laws.EncodedRow.seReg x y
  | .ldImm x nn => Laws.EncodedRow.ldImm x nn
  | .addImm x nn => Laws.EncodedRow.addImm x nn
  | .ldReg x y => Laws.EncodedRow.ldReg x y
  | .orReg x y => Laws.EncodedRow.orReg x y
  | .andReg x y => Laws.EncodedRow.andReg x y
  | .xorReg x y => Laws.EncodedRow.xorReg x y
  | .addReg x y => Laws.EncodedRow.addReg x y
  | .sub x y => Laws.EncodedRow.sub x y
  | .shr x y => Laws.EncodedRow.shr x y
  | .subn x y => Laws.EncodedRow.subn x y
  | .shl x y => Laws.EncodedRow.shl x y
  | .sneReg x y => Laws.EncodedRow.sneReg x y
  | .ldI nnn => Laws.EncodedRow.ldI nnn
  | .jpV0 nnn => Laws.EncodedRow.jpV0 nnn
  | .rnd x nn => Laws.EncodedRow.rnd x nn
  | .drw x y n => Laws.EncodedRow.drw x y n
  | .skp x => Laws.EncodedRow.skp x
  | .sknp x => Laws.EncodedRow.sknp x
  | .ldVxDt x => Laws.EncodedRow.ldVxDt x
  | .ldVxK x => Laws.EncodedRow.ldVxK x
  | .ldDtVx x => Laws.EncodedRow.ldDtVx x
  | .ldStVx x => Laws.EncodedRow.ldStVx x
  | .addI x => Laws.EncodedRow.addI x
  | .ldF x => Laws.EncodedRow.ldF x
  | .ldB x => Laws.EncodedRow.ldB x
  | .ldMemVx x => Laws.EncodedRow.ldMemVx x
  | .ldVxMem x => Laws.EncodedRow.ldVxMem x

/-- 30 R71, R73: the instruction's own row builds it again from the fields of its encoding, format by format. -/
theorem build_fieldsOf_encode {i : Instr} {r : Row} (hr : opcodeTable[Laws.EncodedRow.rowIndex i]? = some r) :
    r.build (fieldsOf (encode i)) = i := by
  cases i with
  | cls | ret => cases hr; rfl
  | jp | call | ldI | jpV0 => cases hr; simp only [encode, fieldsOf_encodeNNN]
  | seImm | sneImm | ldImm | addImm | rnd => cases hr; simp only [encode, fieldsOf_encodeXNN]
  | seReg | ldReg | orReg | andReg | xorReg | addReg | sub | shr | subn | shl | sneReg | drw =>
    cases hr; simp only [encode, fieldsOf_encodeXY]
  | skp | sknp | ldVxDt | ldVxK | ldDtVx | ldStVx | addI | ldF | ldB | ldMemVx | ldVxMem =>
    cases hr; simp only [encode, fieldsOf_encodeX]

/-- The encoding matches its own row, and the rows being disjoint, no other. -/
theorem decode_encode (i : Instr) : decode (encode i) = .ok i := by
  obtain ⟨r, hr, hw⟩ := encode_matches_row i
  rw [decode_of_row hr hw, build_fieldsOf_encode hr]

/-- 30 R71: the decoder takes the two bytes of a word and leaves the rest. -/
theorem decodeBytes_bytesOfWord_append {w : Word} {i : Instr} (h : decode w = .ok i) (rest : List Byte) :
    decodeBytes (bytesOfWord w ++ rest) = .ok (i, rest) := by
  simp only [bytesOfWord, List.cons_append, List.nil_append, decodeBytes, wordOfBytes_bytesOfWord, h]

/-- Settles O1, from the word to its two bytes. -/
theorem decodeAfterEncode : Obligations.DecodeAfterEncode :=
  fun i _ => ⟨decode_encode i, decodeBytes_bytesOfWord_append (decode_encode i)⟩

/-- Settles O6: each word is the encoding of its instruction. -/
theorem writtenWordsDecode : Obligations.WrittenWordsDecode :=
  ⟨decode_encode (.drw 0x7 0xA 0x5), decode_encode (.ldImm 0xA 0x3C), decode_encode (.sub 0x0 0x1),
    decode_encode (.jp 0x234), decode_encode (.ldVxMem 0x2), decode_encode (.ldVxK 0x3)⟩

end Sys2Proof
end

section
/-! SUPPORT. The decoder and the encoder as arithmetic of the word's value (spec file 30): the formats, the words of no row, and a
decoded word encoded. -/

namespace Sys2Proof

/-! The fields, a pattern of each format and a concatenation, as arithmetic of the word's value (30 R71, R73). -/

theorem toNat_append_eq_add {v w : Nat} (a : BitVec v) (b : BitVec w) :
    (a ++ b).toNat = a.toNat * 2 ^ w + b.toNat := by
  rw [BitVec.toNat_append, ← Nat.shiftLeft_add_eq_or_of_lt b.isLt, Nat.shiftLeft_eq]

theorem toNat_fieldsOf (w : Word) :
    (fieldsOf w).c.toNat = w.toNat / 4096 ∧ (fieldsOf w).x.toNat = w.toNat / 256 % 16 ∧
      (fieldsOf w).y.toNat = w.toNat / 16 % 16 ∧ (fieldsOf w).n.toNat = w.toNat % 16 ∧
      (fieldsOf w).nn.toNat = w.toNat % 256 ∧ (fieldsOf w).nnn.toNat = w.toNat % 4096 := by
  have topNibble : w.toNat / 4096 < 16 := by omega
  simp only [fieldsOf, BitVec.extractLsb'_toNat, Nat.shiftRight_eq_div_pow, Nat.reducePow, Nat.div_one,
    Nat.mod_eq_of_lt topNibble, and_self]

theorem nibbleMatches_iff_toNat (p : Option Nibble) (v : Nibble) :
    nibbleMatches p v = true ↔ ∀ d ∈ p, v.toNat = d.toNat := by
  cases p with
  | none => simp [nibbleMatches]
  | some d =>
    simp only [nibbleMatches, beq_iff_eq, Option.mem_def, Option.some.injEq, forall_eq', BitVec.toNat_inj]
    exact eq_comm

/-- A pattern holds when the value of each of its fixed nibbles is the word's (30 R72). -/
theorem Pattern.holds_iff_toNat (p : Pattern) (w : Word) :
    p.holds w = true ↔ w.toNat / 4096 = p.p3.toNat ∧ (∀ d ∈ p.p2, w.toNat / 256 % 16 = d.toNat) ∧
      (∀ d ∈ p.p1, w.toNat / 16 % 16 = d.toNat) ∧ ∀ d ∈ p.p0, w.toNat % 16 = d.toNat := by
  obtain ⟨hc, hx, hy, hn, -⟩ := toNat_fieldsOf w
  have top : p.p3 = (fieldsOf w).c ↔ w.toNat / 4096 = p.p3.toNat := by rw [← hc, BitVec.toNat_inj, eq_comm]
  simp only [Pattern.holds, Bool.and_eq_true, beq_iff_eq, top, nibbleMatches_iff_toNat, hx, hy, hn, and_assoc]

/-- Formats `NNN`, `XNN` and `XYN`: the class is given. -/
theorem openFormat_holds (d : Nibble) (w : Word) :
    (openFormat d).holds w = true ↔ w.toNat / 4096 = d.toNat := by
  simp [Pattern.holds_iff_toNat, openFormat]

/-- Format `XY`: the class and the last digit are given. -/
theorem xyFormat_holds (d e : Nibble) (w : Word) :
    (xyFormat d e).holds w = true ↔ w.toNat / 4096 = d.toNat ∧ w.toNat % 16 = e.toNat := by
  simp [Pattern.holds_iff_toNat, xyFormat]

/-- Format `X`: the class and the low byte are given. -/
theorem xFormat_holds (d d1 d0 : Nibble) (w : Word) :
    (xFormat d d1 d0).holds w = true ↔ w.toNat / 4096 = d.toNat ∧ w.toNat % 256 = d1.toNat * 16 + d0.toNat := by
  have := d0.isLt
  have digits : w.toNat / 16 % 16 = d1.toNat ∧ w.toNat % 16 = d0.toNat ↔
      w.toNat % 256 = d1.toNat * 16 + d0.toNat := by omega
  simp [Pattern.holds_iff_toNat, xFormat, digits]

/-- Format `OP`: the whole word is given. -/
theorem opFormat_holds (d d2 d1 d0 : Nibble) (w : Word) :
    (opFormat d d2 d1 d0).holds w = true ↔
      w.toNat / 4096 = d.toNat ∧ w.toNat % 4096 = d2.toNat * 256 + d1.toNat * 16 + d0.toNat := by
  have := d1.isLt
  have := d0.isLt
  have digits : w.toNat / 256 % 16 = d2.toNat ∧ w.toNat / 16 % 16 = d1.toNat ∧ w.toNat % 16 = d0.toNat ↔
      w.toNat % 4096 = d2.toNat * 256 + d1.toNat * 16 + d0.toNat := by omega
  simp [Pattern.holds_iff_toNat, opFormat, digits]

/-! The words of no row (30 R77). -/

theorem decode_eq_unmatched_iff (w : Word) :
    decode w = .error (.unmatched w) ↔ ∀ r ∈ opcodeTable, ¬ r.pattern.holds w = true := by
  rcases decode_cases w with ⟨r, hr, hw, e⟩ | ⟨unmatched, e⟩
  · exact iff_of_false (by simp [e]) fun unmatched => unmatched r hr hw
  · exact iff_of_true e (by simpa using unmatched)

/-- Settles O5: each row is a condition on the value of the word, and with the class (the top nibble) given all rows of another class
drop out. What is left is the same condition on both sides, but for class 8, where the seven digits refused and the nine that have a
row make up the sixteen. -/
theorem unmatchedWordsExactly : Obligations.UnmatchedWordsExactly := by
  intro w
  rw [decode_eq_unmatched_iff]
  simp only [opcodeTable, opcodeRows1, opcodeRows2, opcodeRows3, List.cons_append, List.nil_append,
    List.forall_mem_cons, openFormat_holds, xyFormat_holds, xFormat_holds, opFormat_holds, BitVec.reduceToNat]
  simp only [List.mem_cons, List.not_mem_nil]
  have class_lt : w.toNat / 4096 < 16 := by omega
  generalize w.toNat / 4096 = c at class_lt ⊢
  rcases eq_or_ne c 8 with rfl | other
  · have digit_lt : w.toNat % 16 < 16 := Nat.mod_lt _ (by decide)
    generalize w.toNat % 16 = n at digit_lt ⊢
    interval_cases n <;> simp
  · interval_cases c <;> simp at other ⊢

/-! A word of a format is put together again from its fields (30 R73). -/

theorem encodeNNN_of_holds {d : Nibble} {w : Word} (h : (openFormat d).holds w = true) :
    encodeNNN d (fieldsOf w).nnn = w := by
  obtain ⟨-, -, -, -, -, hnnn⟩ := toNat_fieldsOf w
  have hd := (openFormat_holds d w).1 h
  apply BitVec.eq_of_toNat_eq
  simp only [encodeNNN, toNat_append_eq_add, hnnn]
  omega

theorem encodeXNN_of_holds {d : Nibble} {w : Word} (h : (openFormat d).holds w = true) :
    encodeXNN d (fieldsOf w).x (fieldsOf w).nn = w := by
  obtain ⟨-, hx, -, -, hnn, -⟩ := toNat_fieldsOf w
  have hd := (openFormat_holds d w).1 h
  apply BitVec.eq_of_toNat_eq
  simp only [encodeXNN, toNat_append_eq_add, hx, hnn]
  omega

theorem encodeXYN_of_holds {d : Nibble} {w : Word} (h : (openFormat d).holds w = true) :
    encodeXY d (fieldsOf w).x (fieldsOf w).y (fieldsOf w).n = w := by
  obtain ⟨-, hx, hy, hn, -, -⟩ := toNat_fieldsOf w
  have hd := (openFormat_holds d w).1 h
  apply BitVec.eq_of_toNat_eq
  simp only [encodeXY, toNat_append_eq_add, hx, hy, hn]
  omega

theorem encodeXY_of_holds {d e : Nibble} {w : Word} (h : (xyFormat d e).holds w = true) :
    encodeXY d (fieldsOf w).x (fieldsOf w).y e = w := by
  obtain ⟨-, hx, hy, -⟩ := toNat_fieldsOf w
  obtain ⟨hd, he⟩ := (xyFormat_holds d e w).1 h
  apply BitVec.eq_of_toNat_eq
  simp only [encodeXY, toNat_append_eq_add, hx, hy]
  omega

theorem encodeX_of_holds {d d1 d0 : Nibble} {w : Word} (h : (xFormat d d1 d0).holds w = true) :
    encodeX d (fieldsOf w).x (d1 ++ d0) = w := by
  obtain ⟨-, hx, -⟩ := toNat_fieldsOf w
  obtain ⟨hd, hlow⟩ := (xFormat_holds d d1 d0 w).1 h
  apply BitVec.eq_of_toNat_eq
  simp only [encodeX, toNat_append_eq_add, hx]
  omega

theorem opDigits_of_holds {d d2 d1 d0 : Nibble} {w : Word} (h : (opFormat d d2 d1 d0).holds w = true) :
    d ++ d2 ++ d1 ++ d0 = w := by
  obtain ⟨hd, hlow⟩ := (opFormat_holds d d2 d1 d0 w).1 h
  apply BitVec.eq_of_toNat_eq
  simp only [toNat_append_eq_add]
  omega

/-- 30 R76: the instruction that a matching row builds from a word's fields is encoded as that word, row by row. -/
theorem encode_build (w : Word) :
    ∀ r ∈ opcodeTable, r.pattern.holds w = true → encode (r.build (fieldsOf w)) = w := by
  simp only [opcodeTable, List.forall_mem_append, opcodeRows1, opcodeRows2, opcodeRows3, List.forall_mem_cons]
  refine ⟨⟨?rows1, ?rows2⟩, ?rows3⟩
  case rows1 =>
    exact ⟨opDigits_of_holds, opDigits_of_holds, encodeNNN_of_holds, encodeNNN_of_holds, encodeXNN_of_holds,
      encodeXNN_of_holds, encodeXY_of_holds, encodeXNN_of_holds, encodeXNN_of_holds, encodeXY_of_holds, nofun⟩
  case rows2 =>
    exact ⟨encodeXY_of_holds, encodeXY_of_holds, encodeXY_of_holds, encodeXY_of_holds, encodeXY_of_holds,
      encodeXY_of_holds, encodeXY_of_holds, encodeXY_of_holds, encodeXY_of_holds, encodeNNN_of_holds,
      encodeNNN_of_holds, encodeXNN_of_holds, encodeXYN_of_holds, nofun⟩
  case rows3 =>
    exact ⟨encodeX_of_holds, encodeX_of_holds, encodeX_of_holds, encodeX_of_holds, encodeX_of_holds, encodeX_of_holds,
      encodeX_of_holds, encodeX_of_holds, encodeX_of_holds, encodeX_of_holds, encodeX_of_holds, nofun⟩

/-- 30 R74: no operand can be out of range. -/
theorem Instr.wf_eq_true (i : Instr) : i.wf = true := by
  cases i <;> rfl

/-- Settles O2: a word that decodes matches a row, and the row's instruction is encoded as the word. -/
theorem encodeAfterDecode : Obligations.EncodeAfterDecode := by
  intro w i h
  refine ⟨?_, i.wf_eq_true⟩
  rcases decode_cases w with ⟨r, hr, hw, e⟩ | ⟨-, e⟩ <;> cases e.symm.trans h
  exact encode_build w r hr hw

end Sys2Proof
end

section
/-! SUPPORT. What a `Step` does with the word it fetches, and what it does when it fetches none (30 R70). -/

namespace Sys2Proof.Machine

/-! A `Step` of a core that is not `FAULTED` (30 R70). -/

theorem cycle_of_decodes {s : State} {w : Word} {i : Instr} (hf : s.faulted = none) (hw : s.fetch = .ok w)
    (hd : decode w = .ok i) : cycle s = exec i s := by
  simp only [cycle, hf, hw, State.check_ok, executeWord, hd]

theorem cycle_of_fetch_error {s : State} {c : FatalCause} (hf : s.faulted = none) (he : s.fetch = .error c) :
    cycle s = FatalAt s c := by
  simp only [cycle, hf, he, State.check_error, State.raise_eq, FatalAt]

/-- Settles O7: an idle step and a `Step` event are the same cycle, and the script is not looked at by the fetch. -/
theorem stepRunsDecodedInstruction : Obligations.StepRunsDecodedInstruction := by
  intro s w i hf hw hd _
  refine ⟨fun idle => ?_, fun es script => ?_, fun e es script => step_of_event script⟩
  · rw [step_of_idle idle, cycle_of_decodes hf hw hd]
  · have hw' : (s.setScript es).fetch = .ok w := (State.fetch_congr rfl rfl).trans hw
    calc step s = dropOutput (stepEvent (s.setScript es)) := step_of_event script
      _ = cycle (s.setScript es) := dropOutput_stepEvent _
      _ = exec i (s.setScript es) := cycle_of_decodes hf hw' hd

/-- Settles O9, by the two ways a fetch faults. -/
theorem fetchOutOfRangeFaults : Obligations.FetchOutOfRangeFaults := by
  intro s idle hf
  rcases s.fetch_cases with ⟨hp, -⟩ | ⟨hp, e⟩ | ⟨hp, e⟩
  · exact ⟨fun h => by omega, fun h => by omega⟩
  · exact ⟨fun h => by omega, fun _ => (step_of_idle idle).trans (cycle_of_fetch_error hf e)⟩
  · exact ⟨fun _ => (step_of_idle idle).trans (cycle_of_fetch_error hf e), fun h => by omega⟩

end Sys2Proof.Machine
end

section
/-! SUPPORT. The ALU instructions (spec file 40): the frame of a register write with and without a flag, and the values of the results
and flags as arithmetic. -/

namespace Sys2Proof.Machine

/-! What a register write leaves unchanged (00 R11). -/

theorem regsKept_setReg (s : State) (x : Nibble) (b : Byte) : RegsKept s (s.setReg x b) [x] :=
  fun _ hr => State.reg_setReg_of_ne (List.ne_of_not_mem_cons hr)

theorem regsKept_flagThenReg (s : State) (f : Bool) (x : Nibble) (b : Byte) :
    RegsKept s (s.flagThenReg f x b) [x, 15] := by
  intro r hr
  obtain ⟨hx, h15⟩ : r ≠ x ∧ r ≠ 15 := by simpa using hr
  rw [State.reg_flagThenReg, if_neg hx, if_neg h15]

theorem registerFrame_setReg (s : State) (x : Nibble) (b : Byte) : RegisterFrame s (s.setReg x b).advance [x] :=
  ⟨rfl, regsKept_setReg s x b, fun _ _ => rfl⟩

theorem registerFrame_flagThenReg (s : State) (f : Bool) (x : Nibble) (b : Byte) :
    RegisterFrame s (s.flagThenReg f x b).advance [x, 15] :=
  ⟨rfl, regsKept_flagThenReg s f x b, fun _ _ => rfl⟩

/-- The result is written last, so the destination holds it whatever `x` is (00 R11). -/
@[simp] theorem State.reg_flagThenReg_dest (s : State) (f : Bool) (x : Nibble) (b : Byte) :
    (s.flagThenReg f x b).reg x = b := by
  rw [State.reg_flagThenReg, if_pos rfl]

/-- The flag stays in `VF` unless the result replaces it. -/
theorem State.reg_flagThenReg_vf (s : State) (f : Bool) {x : Nibble} (b : Byte) (hx : x ≠ 15) :
    (s.flagThenReg f x b).reg 15 = flagByte f := by
  rw [State.reg_flagThenReg, if_neg hx.symm, if_pos rfl]

/-! The results as arithmetic (40 R112). -/

theorem toNat_addByte (a b : Byte) : (addByte a b).toNat = (a.toNat + b.toNat) % 256 :=
  BitVec.toNat_ofNat _ 8

theorem toNat_subByte (a b : Byte) : ((subByte a b).toNat : Int) = ((a.toNat : Int) - b.toNat) % 256 := by
  rw [subByte, BitVec.toNat_ofInt]
  exact Int.toNat_of_nonneg (Int.emod_nonneg _ (by decide))

/-- Half a byte needs no masking. -/
theorem toNat_shrByte (a : Byte) : (shrByte a).toNat = a.toNat / 2 := by
  have := a.isLt
  rw [shrByte, BitVec.toNat_ofNat, Nat.mod_eq_of_lt (by omega)]

theorem toNat_shlByte (a : Byte) : (shlByte a).toNat = a.toNat * 2 % 256 :=
  BitVec.toNat_ofNat _ 8

/-! The flags as arithmetic (10 R42). -/

theorem toNat_flagByte (c : Bool) : (flagByte c).toNat = c.toNat := by
  cases c <;> rfl

theorem toNat_flagByte_decide (p : Prop) [Decidable p] : (flagByte (decide p)).toNat = if p then 1 else 0 := by
  rw [toNat_flagByte]
  split <;> simp [*]

/-- 40 R108: bit 0 is what halving drops. -/
theorem toNat_flagByte_shrFlag (a : Byte) : (flagByte (shrFlag a)).toNat = a.toNat % 2 := by
  rw [toNat_flagByte, shrFlag, BitVec.getLsbD, Nat.toNat_testBit, pow_zero, Nat.div_one]

/-- 40 R110: bit 7 is what doubling carries out of the byte. -/
theorem toNat_flagByte_shlFlag (a : Byte) : (flagByte (shlFlag a)).toNat = a.toNat / 128 := by
  have := a.isLt
  rw [toNat_flagByte, shlFlag, BitVec.getLsbD, Nat.toNat_testBit]
  omega

/-! The obligations about the ALU instructions (spec file 40). Each word is the encoding of its instruction, and each instruction
completes with one register write. -/

/-- Settles O31: the value written is the operand itself. -/
theorem loadRegister : Obligations.LoadRegister := by
  intro x y nn
  refine ⟨decode_encode (.ldImm x nn), decode_encode (.ldReg x y), fun s => ⟨?imm, ?reg⟩⟩
  case imm => exact ⟨_, rfl, State.reg_setReg_self s x nn, registerFrame_setReg s x nn⟩
  case reg => exact ⟨_, rfl, State.reg_setReg_self s x (s.reg y), registerFrame_setReg s x (s.reg y)⟩

/-- Settles O32: the masked sum in the destination, and no flag. -/
theorem addImmediate : Obligations.AddImmediate := by
  intro x nn
  refine ⟨decode_encode (.addImm x nn), fun s => ⟨_, rfl, ?value, registerFrame_setReg s x _⟩⟩
  rw [State.advance_reg, State.reg_setReg_self, toNat_addByte]

/-- Settles O33, operation by operation. -/
theorem bitwiseFamily : Obligations.BitwiseFamily := by
  intro x y
  refine ⟨decode_encode (.orReg x y), decode_encode (.andReg x y), decode_encode (.xorReg x y), fun s =>
    ⟨⟨_, rfl, registerFrame_setReg s x _, fun b => ?or⟩, ⟨_, rfl, registerFrame_setReg s x _, fun b => ?and⟩,
      ⟨_, rfl, registerFrame_setReg s x _, fun b => ?xor⟩⟩⟩
  case or => rw [State.advance_reg, State.reg_setReg_self, BitVec.getLsbD_or]
  case and => rw [State.advance_reg, State.reg_setReg_self, BitVec.getLsbD_and]
  case xor => rw [State.advance_reg, State.reg_setReg_self, BitVec.getLsbD_xor]

/-- Settles O34: the carry is written to `VF`, then the masked sum to the destination. -/
theorem addWithCarry : Obligations.AddWithCarry := by
  intro x y
  refine ⟨decode_encode (.addReg x y), fun s => ⟨_, rfl, registerFrame_flagThenReg s _ x _, ?sum, fun hx => ?carry⟩⟩
  case sum => rw [State.advance_reg, State.reg_flagThenReg_dest, toNat_addByte]
  case carry => rw [State.advance_reg, State.reg_flagThenReg_vf s _ _ hx, addCarry, toNat_flagByte_decide]

/-- Settles O35: the strict comparison is written to `VF`, then the difference to the destination. -/
theorem subtractSetsNotBorrow : Obligations.SubtractSetsNotBorrow := by
  intro x y
  refine ⟨decode_encode (.sub x y), fun s =>
    ⟨_, rfl, registerFrame_flagThenReg s _ x _, ?difference, fun hx => ?notBorrow⟩⟩
  case difference => rw [State.advance_reg, State.reg_flagThenReg_dest, toNat_subByte]
  case notBorrow => rw [State.advance_reg, State.reg_flagThenReg_vf s _ _ hx, subFlag, toNat_flagByte_decide]

/-- Settles O36: the comparison that equal operands pass is written to `VF`, then the reversed difference to the destination. -/
theorem subtractReversed : Obligations.SubtractReversed := by
  intro x y
  refine ⟨decode_encode (.subn x y), fun s =>
    ⟨_, rfl, registerFrame_flagThenReg s _ x _, ?difference, fun hx => ?notBorrow⟩⟩
  case difference => rw [State.advance_reg, State.reg_flagThenReg_dest, toNat_subByte]
  case notBorrow => rw [State.advance_reg, State.reg_flagThenReg_vf s _ _ hx, subnFlag, toNat_flagByte_decide]

/-- Settles O37: the bit shifted out is written to `VF`, then the half to the destination; `y` occurs in neither. -/
theorem shiftRight : Obligations.ShiftRight := by
  intro x y
  refine ⟨decode_encode (.shr x y), fun s => ⟨_, rfl, registerFrame_flagThenReg s _ x _, ?half, fun hx => ?bit⟩⟩
  case half => rw [State.advance_reg, State.reg_flagThenReg_dest, toNat_shrByte]
  case bit => rw [State.advance_reg, State.reg_flagThenReg_vf s _ _ hx, toNat_flagByte_shrFlag]

/-- Settles O38: the bit shifted out is written to `VF`, then the masked double to the destination; `y` occurs in neither. -/
theorem shiftLeft : Obligations.ShiftLeft := by
  intro x y
  refine ⟨decode_encode (.shl x y), fun s => ⟨_, rfl, registerFrame_flagThenReg s _ x _, ?double, fun hx => ?bit⟩⟩
  case double => rw [State.advance_reg, State.reg_flagThenReg_dest, toNat_shlByte]
  case bit => rw [State.advance_reg, State.reg_flagThenReg_vf s _ _ hx, toNat_flagByte_shlFlag]

/-- Settles O39: whatever byte is drawn, a bit that `nn` masks out is 0. -/
theorem randomMasked : Obligations.RandomMasked := by
  intro x nn
  refine ⟨decode_encode (.rnd x nn), fun s => ?_⟩
  have drawn : (s.setReg x (s.drawn &&& nn)).reg x = Config.freeByte s.draws &&& nn := State.reg_setReg_self s x _
  refine ⟨_, rfl, drawn, fun b hb => ?masked, regsKept_setReg s x _, fun _ _ => rfl, rfl⟩
  rw [State.advance_reg, State.setDraws_reg, drawn, BitVec.getLsbD_and, hb, Bool.and_false]

end Sys2Proof.Machine
end

section
/-! SUPPORT. Skips, jumps, call and return (spec file 41): the frame of a write to `PC`, alone and with the stack, and the targets as
arithmetic. -/

namespace Sys2Proof.Machine

/-! What a control transfer leaves unchanged (41 R128). -/

theorem transferFrame_setPc (s : State) (target : Word) : TransferFrame s (s.setPc target) target :=
  ⟨rfl, fun _ _ => rfl, fun _ _ => rfl⟩

/-- A skip whose test decides `p` goes where `p` says. -/
theorem transferFrame_skipIf (s : State) {test : Bool} {p : Prop} [Decidable p] (h : test = true ↔ p) :
    TransferFrame s (s.skipIf test) (if p then s.pc + 4 else s.pc + 2) := by
  rw [← if_congr h rfl rfl]
  exact transferFrame_setPc s _

/-- `CALL` and `RET` write the stack and `PC` and nothing else. -/
theorem frame_setStk_setPc (s : State) (stk : List Word) (target : Word) :
    (s.setStk stk).setPc target = { s with stk := stk, pc := target } ∧
      RegsKept s ((s.setStk stk).setPc target) [] ∧ BytesKept s ((s.setStk stk).setPc target) 0 0 :=
  ⟨rfl, fun _ _ => rfl, fun _ _ => rfl⟩

/-! The targets as arithmetic (30 R74, 41 R126). -/

theorem toNat_zextAddr (nnn : Addr12) : (zextAddr nnn).toNat = nnn.toNat :=
  BitVec.toNat_setWidth_of_le (by decide)

/-- Two operands of 12 and 8 bits have a sum that fits `PC` unmasked (41 R126). -/
theorem State.toNat_offsetTarget (s : State) (nnn : Addr12) :
    (s.offsetTarget nnn).toNat = nnn.toNat + (s.reg 0).toNat := by
  have hbase := nnn.isLt
  have hoffset := (s.reg 0).isLt
  rw [State.offsetTarget, BitVec.toNat_ofNat, Nat.mod_eq_of_lt (by omega)]

/-! Call and return, one rule for each state of the stack (10 R29, R30, 41 R125, R127). -/

theorem exec_call_of_room {s : State} (nnn : Addr12) (room : s.stk.length < s.par.stackDepth) :
    exec (.call nnn) s = .next ((s.setStk (s.stk ++ [s.pc])).setPc (zextAddr nnn)) := by
  rcases execCall_cases nnn s with ⟨-, e⟩ | ⟨full, -⟩
  · exact e
  · exact absurd room (Nat.not_lt.mpr full)

theorem exec_call_of_full {s : State} (nnn : Addr12) (full : s.par.stackDepth ≤ s.stk.length) :
    exec (.call nnn) s = FatalAt s .stackOverflow := by
  rcases execCall_cases nnn s with ⟨room, -⟩ | ⟨-, e⟩
  · exact absurd room (Nat.not_lt.mpr full)
  · exact e

theorem exec_ret_of_top {s : State} {stk : List Word} {a : Word} (top : s.stk = stk ++ [a]) :
    exec .ret s = .next ((s.setStk stk).setPc (a + 2)) := by
  simp only [exec, execRet, State.pop_concat top, State.check_ok]

theorem exec_ret_of_empty {s : State} (empty : s.stk = []) : exec .ret s = FatalAt s .stackUnderflow := by
  simp only [exec, execRet, State.pop_nil empty, State.check_error, State.raise_eq, FatalAt]

/-! The obligations about control transfer (spec file 41). Each word is the encoding of its instruction. -/

/-- Settles O40: each test decides the comparison with the immediate. -/
theorem skipOnImmediate : Obligations.SkipOnImmediate := by
  intro x nn
  refine ⟨decode_encode (.seImm x nn), decode_encode (.sneImm x nn), fun s => ⟨?equal, ?differs⟩⟩
  case equal => exact ⟨_, rfl, transferFrame_skipIf s beq_iff_eq⟩
  case differs => exact ⟨_, rfl, transferFrame_skipIf s bne_iff_ne⟩

/-- Settles O41: each test decides the comparison of the two registers. -/
theorem skipOnRegister : Obligations.SkipOnRegister := by
  intro x y
  refine ⟨decode_encode (.seReg x y), decode_encode (.sneReg x y), fun s => ⟨?equal, ?differs⟩⟩
  case equal => exact ⟨_, rfl, transferFrame_skipIf s beq_iff_eq⟩
  case differs => exact ⟨_, rfl, transferFrame_skipIf s bne_iff_ne⟩

/-- Settles O42: the target is the immediate, zero-extended. -/
theorem jumpGoesToTarget : Obligations.JumpGoesToTarget := fun nnn =>
  ⟨decode_encode (.jp nnn), fun s => ⟨_, rfl, toNat_zextAddr nnn, transferFrame_setPc s _⟩⟩

/-- Settles O43: the target is the unmasked sum. -/
theorem jumpAddsOffset : Obligations.JumpAddsOffset := fun nnn =>
  ⟨decode_encode (.jpV0 nnn), fun s => ⟨_, rfl, s.toNat_offsetTarget nnn, transferFrame_setPc s _⟩⟩

/-- Settles O44, by whether the stack has room. -/
theorem callPushesItsAddress : Obligations.CallPushesItsAddress := by
  intro nnn
  refine ⟨decode_encode (.call nnn), fun s => ⟨fun room => ?room, exec_call_of_full nnn⟩⟩
  exact ⟨_, exec_call_of_room nnn room, rfl, toNat_zextAddr nnn, frame_setStk_setPc s _ _⟩

/-- Settles O45, by whether the stack has a top entry. -/
theorem returnPopsTheStack : Obligations.ReturnPopsTheStack := by
  refine ⟨decode_encode .ret, fun s => ⟨fun stk a top => ?top, exec_ret_of_empty⟩⟩
  exact ⟨_, exec_ret_of_top top, rfl, rfl, frame_setStk_setPc s stk _⟩

/-- Settles O46: the entry on top of the stack a `CALL` leaves is its own address. -/
theorem returnUndoesCall : Obligations.ReturnUndoesCall := fun nnn _ room =>
  ⟨_, exec_call_of_room nnn room, fun _ stack => exec_ret_of_top stack⟩

end Sys2Proof.Machine
end

section
/-! SUPPORT. The index and the memory instructions (spec file 42): the frames of a write to `I`, to memory and to a block of registers,
the values written as arithmetic, and the check of a block as two rules. -/

namespace Sys2Proof.Machine

/-! What the instructions leave unchanged (42 R146). -/

/-- `LD I, nnn` and `LD F, Vx` write `I` and `PC` and nothing else. -/
theorem frame_setI (s : State) (w : Word) :
    (s.setI w).advance = { s with i := w, pc := s.pc + 2 } ∧
      RegsKept s (s.setI w).advance [] ∧ BytesKept s (s.setI w).advance 0 0 :=
  ⟨rfl, fun _ _ => rfl, fun _ _ => rfl⟩

/-- A store of `bs` at `a` keeps every byte outside the block. -/
theorem bytesKept_writeBytes {s : State} (hm : Memory.wf s.mem) (a : Nat) (bs : List Byte) :
    BytesKept s (s.setMem (Memory.writeBytes s.mem a bs)) a bs.length :=
  fun _ outside => by rw [State.setMem_mem, Memory.read_writeBytes hm, if_neg outside]

/-- `LD B, Vx` and `LD [I], Vx` write the block of `n` bytes from `a` and `PC`, and nothing else. -/
theorem frame_writeBytes {s : State} (hm : Memory.wf s.mem) (a : Nat) {n : Nat} {bs : List Byte} (hn : bs.length = n) :
    (s.setMem (Memory.writeBytes s.mem a bs)).advance =
        { s with mem := Memory.writeBytes s.mem a bs, pc := s.pc + 2 } ∧
      RegsKept s (s.setMem (Memory.writeBytes s.mem a bs)).advance [] ∧
      BytesKept s (s.setMem (Memory.writeBytes s.mem a bs)).advance a n :=
  ⟨rfl, fun _ _ => rfl, hn ▸ bytesKept_writeBytes hm a bs⟩

/-- `LD Vx, [I]` writes registers and `PC` and nothing else. -/
theorem frame_setRegs (s : State) (v : Vector Byte 16) :
    (s.setRegs v).advance = { s with v := v, pc := s.pc + 2 } ∧ BytesKept s (s.setRegs v).advance 0 0 :=
  ⟨rfl, fun _ _ => rfl⟩

/-! The values written (42 R141 to R145). -/

theorem toNat_indexSum (i : Word) (b : Byte) : (indexSum i b).toNat = (i.toNat + b.toNat) % 65536 :=
  BitVec.toNat_ofNat _ 16

theorem State.toNat_glyphAddr (s : State) (b : Byte) :
    (s.glyphAddr b).toNat = (s.par.fontBase + s.par.glyphBytes * b.toNat) % 65536 :=
  BitVec.toNat_ofNat _ 16

/-- Each decimal digit of a byte fits its byte unmasked (42 R143). -/
theorem map_toNat_bcdDigits (b : Byte) :
    (bcdDigits b).map BitVec.toNat = [b.toNat / 100, b.toNat / 10 % 10, b.toNat % 10] := by
  have := b.isLt
  have hundreds : b.toNat / 100 < 2 ^ 8 := by omega
  have tens : b.toNat / 10 % 10 < 2 ^ 8 := by omega
  have ones : b.toNat % 10 < 2 ^ 8 := by omega
  simp only [bcdDigits, List.map_cons, List.map_nil, BitVec.toNat_ofNat, Nat.mod_eq_of_lt hundreds,
    Nat.mod_eq_of_lt tens, Nat.mod_eq_of_lt ones]

/-- A stored block reads back byte by byte. -/
theorem Memory.read_writeBytes_add {m : Memory} (hm : Memory.wf m) (a : Nat) {bs : List Byte} {j : Nat} {b : Byte}
    (hb : bs[j]? = some b) : Memory.read (Memory.writeBytes m a bs) (a + j) = b := by
  have hj : j < bs.length := (List.getElem?_eq_some_iff.mp hb).1
  rw [Memory.read_writeBytes hm, if_pos (by omega), Nat.add_sub_cancel_left, hb, Option.getD_some]

/-- 42 R143: after the digits of `b` are stored from `a`, the byte at `a + j` is the digit `j`, the hundreds first. -/
theorem Memory.toNat_read_writeBytes_bcdDigits {m : Memory} (hm : Memory.wf m) (a : Nat) (b : Byte) (j : Nat) {d : Nat}
    (hd : [b.toNat / 100, b.toNat / 10 % 10, b.toNat % 10][j]? = some d) :
    (Memory.read (Memory.writeBytes m a (bcdDigits b)) (a + j)).toNat = d := by
  rw [← map_toNat_bcdDigits, List.getElem?_map, Option.map_eq_some_iff] at hd
  obtain ⟨byte, stored, value⟩ := hd
  rw [Memory.read_writeBytes_add hm a stored, value]

/-- 42 R145: after `V[0]` to `V[x]` are loaded from `a`, a register up to `V[x]` is the byte at its place. -/
theorem State.reg_loadRegsTo_readBytes (s : State) (a : Nat) {x j : Nibble} (hj : j.toNat ≤ x.toNat) :
    (s.setRegs (loadRegsTo s.v x (Memory.readBytes s.mem a (x.toNat + 1)))).reg j = Memory.read s.mem (a + j.toNat) := by
  rw [State.reg_loadRegsTo, if_pos hj, Memory.getElem?_readBytes _ _ _ _ (Nat.lt_succ_of_le hj), Option.getD_some]

/-! The check of a block (20 R59): the shape that the cases of the three block instructions share, as one rule for each outcome. -/

theorem next_and_fatal_of_cases {s u : State} {c : FatalCause} {r : Result} {last bound : Nat}
    (hr : (last ≤ bound ∧ r = .next u) ∨ (bound < last ∧ r = s.raise c)) :
    (last ≤ bound → r = .next u) ∧ (bound < last → r = FatalAt s c) := by
  rcases hr with ⟨fits, e⟩ | ⟨exceeds, e⟩
  · exact ⟨fun _ => e, fun exceeds => absurd fits (Nat.not_le.mpr exceeds)⟩
  · exact ⟨fun fits => absurd fits (Nat.not_le.mpr exceeds), fun _ => e⟩

/-! The obligations about the index and memory (spec file 42). Each word is the encoding of its instruction. -/

/-- Settles O47: `I` is the immediate, zero-extended. -/
theorem loadIndex : Obligations.LoadIndex := fun nnn =>
  ⟨decode_encode (.ldI nnn), fun s => ⟨_, rfl, toNat_zextAddr nnn, frame_setI s _⟩⟩

/-- Settles O48: the operand is read before the flag is written, so `x = 15` needs no case of its own. -/
theorem addToIndex : Obligations.AddToIndex := by
  intro x
  refine ⟨decode_encode (.addI x), fun s =>
    ⟨_, rfl, toNat_indexSum _ _, ?flag, rfl, regsKept_setReg s 15 _, fun _ _ => rfl⟩⟩
  rw [State.advance_reg, State.setI_reg, State.reg_setReg_self, indexFlag, toNat_flagByte_decide, toNat_indexSum]

/-- Settles O49: `I` is the masked glyph address. -/
theorem glyphAddress : Obligations.GlyphAddress := fun x =>
  ⟨decode_encode (.ldF x), fun s => ⟨_, rfl, s.toNat_glyphAddr _, frame_setI s _⟩⟩

/-- Settles O50, by whether the three bytes fit below 4096. -/
theorem bcdStore : Obligations.BcdStore := by
  intro x
  refine ⟨decode_encode (.ldB x), fun s hm => ?_⟩
  obtain ⟨completes, faults⟩ := next_and_fatal_of_cases (execLdB_cases x s)
  have digit := Memory.toNat_read_writeBytes_bcdDigits hm s.i.toNat (s.reg x)
  exact ⟨fun fits => ⟨_, completes fits, digit 0 rfl, digit 1 rfl, digit 2 rfl,
    frame_writeBytes hm _ (length_bcdDigits _)⟩, faults⟩

/-- Settles O51, by whether the `x + 1` bytes fit below 4096. -/
theorem blockStore : Obligations.BlockStore := by
  intro x
  refine ⟨decode_encode (.ldMemVx x), fun s hm => ?_⟩
  obtain ⟨completes, faults⟩ := next_and_fatal_of_cases (execLdMemVx_cases x s)
  exact ⟨fun fits => ⟨_, completes fits, fun _ hj => Memory.read_writeBytes_regsTo hm s _ hj,
    frame_writeBytes hm _ (s.length_regsTo x)⟩, faults⟩

/-- Settles O52, by whether the `x + 1` bytes fit below 4096. -/
theorem blockLoad : Obligations.BlockLoad := by
  intro x
  refine ⟨decode_encode (.ldVxMem x), fun s => ?_⟩
  obtain ⟨completes, faults⟩ := next_and_fatal_of_cases (execLdVxMem_cases x s)
  refine ⟨fun fits => ⟨_, completes fits, fun j hj => ?loaded, fun j above => ?kept, frame_setRegs s _⟩, faults⟩
  case loaded => rw [State.advance_reg, s.reg_loadRegsTo_readBytes _ hj]
  case kept => rw [State.advance_reg, State.reg_loadRegsTo, if_neg (Nat.not_le.mpr above)]

end Sys2Proof.Machine
end

section
/-! SUPPORT. The graphics unit (spec file 43): the display and the collision after a list of toggles, the sprite of a `DRW`, what a
draw writes and what it leaves unchanged. -/

namespace Sys2Proof.Machine

/-! The display after a list of toggles (43 R161, R162, R165). -/

/-- Each of pairwise distinct cells is toggled once. -/
theorem lit_composeCells_of_mem {d : Display} {cells : List (Fin 2048)} {k : Fin 2048} (distinct : cells.Nodup)
    (hk : k ∈ cells) : Display.lit (composeCells d cells).1 k = !Display.lit d k := by
  rw [lit_composeCells, List.count_eq_one_of_mem distinct hk]
  exact Bool.xor_true _

theorem lit_composeCells_of_not_mem {d : Display} {cells : List (Fin 2048)} {k : Fin 2048} (hk : k ∉ cells) :
    Display.lit (composeCells d cells).1 k = Display.lit d k := by
  rw [lit_composeCells, List.count_eq_zero_of_not_mem hk]
  exact Bool.xor_false _

/-- 43 R165 (g): two equal toggles cancel, so the same toggles once more restore the display. -/
theorem composeCells_composeCells (d : Display) (cells : List (Fin 2048)) :
    (composeCells (composeCells d cells).1 cells).1 = d :=
  Display.ext fun k => by rw [lit_composeCells, lit_composeCells, Bool.xor_assoc, Bool.xor_self, Bool.xor_false]

/-! What a draw writes, and what it leaves unchanged (43 R161, R162). -/

theorem State.vf_composite_of_lit {s : State} {cells : List (Fin 2048)} (distinct : cells.Nodup)
    (lit : ∃ k ∈ cells, Display.lit s.disp k = true) : (s.composite cells).reg 15 = 1 := by
  have collision : (composeCells s.disp cells).2 = true :=
    (collision_composeCells s.disp cells distinct).trans (List.any_eq_true.mpr lit)
  rw [State.reg_composite, if_pos rfl, collision]
  rfl

theorem State.vf_composite_of_dark {s : State} {cells : List (Fin 2048)} (distinct : cells.Nodup)
    (dark : ∀ k ∈ cells, Display.lit s.disp k = false) : (s.composite cells).reg 15 = 0 := by
  have clear : (composeCells s.disp cells).2 = false := by
    rw [collision_composeCells s.disp cells distinct, List.any_eq_false]
    exact fun k hk => Bool.eq_false_iff.mp (dark k hk)
  rw [State.reg_composite, if_pos rfl, clear]
  rfl

theorem regsKept_composite (s : State) (cells : List (Fin 2048)) : RegsKept s (s.composite cells) [15] :=
  fun r hr => by rw [State.reg_composite, if_neg (List.ne_of_not_mem_cons hr)]

/-! The sprite of a `DRW` (43 R161, R163 to R165). -/

/-- The cells `DRW Vx, Vy, n` toggles at `s`, in queue order: those of the `n` bytes at `I`. -/
def State.sprite (s : State) (x y n : Nibble) : List (Fin 2048) :=
  s.drawnCells x y (Memory.readBytes s.mem s.i.toNat n.toNat)

/-- 43 R165 (c): at most 15 rows do not wrap onto each other. -/
theorem State.nodup_sprite (s : State) (x y n : Nibble) : (s.sprite x y n).Nodup := by
  have rows := n.isLt
  refine nodup_spriteCells _ _ _ ?_
  rw [Memory.length_readBytes]
  omega

/-- 43 R163, R164: the cells by number, each row read from memory. -/
theorem State.map_val_sprite (s : State) (x y n : Nibble) :
    (s.sprite x y n).map (fun k => k.val) =
      (List.range n.toNat).flatMap fun r =>
        ((List.range 8).filter fun c => (Memory.read s.mem (s.i.toNat + r)).getLsbD (7 - c)).map fun c =>
          ((s.reg y).toNat + r) % 32 * 64 + ((s.reg x).toNat + c) % 64 := by
  rw [State.sprite, State.drawnCells, map_val_spriteCells, Memory.length_readBytes]
  refine List.flatMap_congr fun r hr => ?_
  rw [Memory.getElem?_readBytes _ _ _ _ (List.mem_range.mp hr), Option.getD_some]

/-- A draw moves the sprite only by the `VF` it writes (43 R165 (e), (g)). -/
theorem State.sprite_composite (s : State) (cells : List (Fin 2048)) {x y : Nibble} (n : Nibble) (hx : x ≠ 15)
    (hy : y ≠ 15) : (s.composite cells).advance.sprite x y n = s.sprite x y n := by
  have columns : (s.composite cells).advance.reg x = s.reg x := State.reg_setReg_of_ne hx
  have rows : (s.composite cells).advance.reg y = s.reg y := State.reg_setReg_of_ne hy
  rw [State.sprite, State.drawnCells, columns, rows]
  rfl

/-! `DRW`, one rule for each outcome of its range check (43 R161, R165 (a)). -/

theorem exec_drw_of_fits {s : State} {n : Nibble} (x y : Nibble)
    (fits : n.toNat = 0 ∨ s.i.toNat + n.toNat - 1 ≤ 4095) :
    exec (.drw x y n) s = .next (s.composite (s.sprite x y n)).advance := by
  rcases execDrw_cases x y n s with ⟨-, e⟩ | ⟨rows, exceeds, -⟩
  · exact e
  · omega

theorem exec_drw_of_exceeds {s : State} {n : Nibble} (x y : Nibble) (rows : 0 < n.toNat)
    (exceeds : 4095 < s.i.toNat + n.toNat - 1) :
    exec (.drw x y n) s = FatalAt s (.addressOutOfRange (s.i.toNat + n.toNat - 1)) := by
  rcases execDrw_cases x y n s with ⟨fits, -⟩ | ⟨-, -, e⟩
  · omega
  · exact e

/-! `ReadDisplay`, one rule for each side of its bound (43 R168). -/

theorem readDisplay_of_cell (s : State) (k : Fin 2048) :
    readDisplay k.val s = .next (s, .cell (Display.lit s.disp k)) :=
  dif_pos k.isLt

theorem readDisplay_of_exceeds (s : State) {k : Nat} (exceeds : 2047 < k) :
    readDisplay k s = .refused (.displayIndexOutOfRange k) :=
  dif_neg (Nat.not_lt.mpr exceeds)

/-! The obligations about graphics (spec file 43). -/

/-- Settles O55, by whether the last row lies inside memory. -/
theorem drawSprite : Obligations.DrawSprite := by
  intro x y n
  refine ⟨decode_encode (.drw x y n), fun s => ⟨fun fits => ?drawn, fun rows exceeds => ?faults⟩⟩
  case drawn =>
    have distinct := s.nodup_sprite x y n
    refine ⟨_, s.sprite x y n, exec_drw_of_fits x y (fits.imp_left (congrArg BitVec.toNat)), s.map_val_sprite x y n,
      distinct, rfl, fun k hk => lit_composeCells_of_mem distinct hk, fun k hk => lit_composeCells_of_not_mem hk,
      ?collision, rfl, rfl, regsKept_composite s _, fun _ _ => rfl⟩
    by_cases lit : ∃ k ∈ s.sprite x y n, Display.lit s.disp k = true
    · exact .inl ⟨State.vf_composite_of_lit distinct lit, lit⟩
    · have dark : ∀ k ∈ s.sprite x y n, Display.lit s.disp k = false :=
        fun k hk => Bool.eq_false_iff.mpr fun h => lit ⟨k, hk, h⟩
      exact .inr ⟨State.vf_composite_of_dark distinct dark, dark⟩
  case faults => exact exec_drw_of_exceeds x y (Nat.pos_of_ne_zero (BitVec.toNat_ne_iff_ne.mpr rows)) exceeds

/-- Settles O56: the first draw leaves `I`, memory and the coordinates, so the second toggles the same cells. -/
theorem drawTwiceRestoresDisplay : Obligations.DrawTwiceRestoresDisplay := by
  intro x y n s t hx hy first
  cases exec_effect first with
  | draw _ _ _ fits =>
    have distinct := s.nodup_sprite x y n
    have second := exec_drw_of_fits (s := (s.composite (s.sprite x y n)).advance) x y fits
    rw [s.sprite_composite _ n hx hy] at second
    refine ⟨_, s.sprite x y n, second, composeCells_composeCells s.disp _, rfl, rfl, fun nonempty dark =>
      ⟨State.vf_composite_of_dark distinct dark, State.vf_composite_of_lit distinct ?_⟩⟩
    obtain ⟨k, hk⟩ := List.exists_mem_of_ne_nil _ nonempty
    refine ⟨k, hk, ?_⟩
    calc Display.lit (composeCells s.disp (s.sprite x y n)).1 k
      _ = !Display.lit s.disp k := lit_composeCells_of_mem distinct hk
      _ = true := by rw [dark k hk, Bool.not_false]
  | skip _ hi | jump _ hi => cases hi
  | load _ hd | flagged _ _ _ hd => cases hd

/-- Settles O30: each event is the one write that its rule gives. -/
theorem rendererEvents : Obligations.RendererEvents := fun s =>
  ⟨rfl, rfl, rfl, readDisplay_of_cell s, fun _ => readDisplay_of_exceeds s⟩

/-- Settles O54: `00E0` is the encoding of `CLS`, and a clear display has every cell off. -/
theorem clearScreen : Obligations.ClearScreen :=
  ⟨decode_encode .cls, fun _ => ⟨_, rfl, Display.lit_clear, rfl, rfl, rfl, fun _ _ => rfl, fun _ _ => rfl⟩⟩

end Sys2Proof.Machine
end

section
/-! SUPPORT. Timers and keyboard (spec file 44): the two timers under the effects, the values of the timers and of `KEY` as
arithmetic, what a timer write leaves unchanged, a key read at each level of `KEY`, and a key press on each side of its bounds. -/

namespace Sys2Proof.Machine

/-! The timers under the effects (10 R35, 44 R180). -/

theorem Effect.dt_kept {i : Instr} {s t : State} (h : Effect s i t) (hdelay : ∀ x, i ≠ .ldDtVx x) : t.dt = s.dt := by
  cases h with
  | delay x => exact absurd rfl (hdelay x)
  | _ => simp

theorem Effect.st_kept {i : Instr} {s t : State} (h : Effect s i t) (hsound : ∀ x, i ≠ .ldStVx x) : t.st = s.st := by
  cases h with
  | sound x => exact absurd rfl (hsound x)
  | _ => simp

/-! The values (44 R181, R184, R185, R187). -/

/-- 44 R181: the subtraction of naturals stops at 0, as the timer does. -/
theorem toNat_countDown (b : Byte) : (countDown b).toNat = b.toNat - 1 := by
  rw [countDown]
  split
  case isTrue zero => rw [zero]; rfl
  case isFalse above => bv_omega

/-- 44 R187: the test for 1 is the same on the byte and on its value. -/
theorem toNat_soundValue (b : Byte) : (soundValue b).toNat = if b.toNat = 1 then 2 else b.toNat := by
  have test : b = 1 ↔ b.toNat = 1 := BitVec.toNat_inj.symm
  rw [soundValue, apply_ite BitVec.toNat, if_congr test rfl rfl]
  rfl

/-- 44 R187: no value but 0 is stored as 0. -/
theorem toNat_soundValue_ne_zero (b : Byte) : (soundValue b).toNat ≠ 0 ↔ b.toNat ≠ 0 := by
  rw [toNat_soundValue]
  split <;> omega

theorem State.snd_iff (s : State) : s.snd = true ↔ s.st.toNat ≠ 0 := by
  rw [State.snd, bne_iff_ne]
  exact BitVec.toNat_ne_iff_ne.symm

/-- 10 R36: a key code fits a byte. -/
theorem State.toNat_keyByte (s : State) : s.keyByte.toNat = s.key.val := by
  have code := s.key.isLt
  rw [State.keyByte, BitVec.toNat_ofNat, Nat.mod_eq_of_lt (by omega)]

/-- 44 R188, R189: the byte compared is `KEY`'s value. -/
theorem State.eq_keyByte_iff (s : State) (b : Byte) : b = s.keyByte ↔ b.toNat = s.key.val := by
  rw [← BitVec.toNat_inj, s.toNat_keyByte]

/-! What the instructions leave unchanged (44 R183, R187). -/

theorem frame_setDt (s : State) (b : Byte) :
    (s.setDt b).advance = { s with dt := b, pc := s.pc + 2 } ∧ RegsKept s (s.setDt b).advance [] ∧
      BytesKept s (s.setDt b).advance 0 0 :=
  ⟨rfl, fun _ _ => rfl, fun _ _ => rfl⟩

theorem frame_setSt (s : State) (b : Byte) :
    (s.setSt b).advance = { s with st := b, pc := s.pc + 2 } ∧ RegsKept s (s.setSt b).advance [] ∧
      BytesKept s (s.setSt b).advance 0 0 :=
  ⟨rfl, fun _ _ => rfl, fun _ _ => rfl⟩

/-! `LD Vx, K`, one rule for each level of `KEY` (44 R185). -/

theorem exec_ldVxK_of_released {s : State} (x : Nibble) (released : s.key = 0) :
    exec (.ldVxK x) s = .next (s.setWait true) :=
  if_pos released

theorem exec_ldVxK_of_pressed {s : State} (x : Nibble) (pressed : s.key ≠ 0) :
    exec (.ldVxK x) s = .next ((s.setReg x s.keyByte).setWait false).advance :=
  if_neg pressed

/-! `KeyPress`, one rule for each side of its bounds (44 R186). -/

theorem keyPress_of_inRange (s : State) {code : Nat} (inRange : 1 ≤ code ∧ code ≤ 16) :
    keyPress code s = .next (s.setKey ⟨code, by omega⟩, .silent) :=
  dif_pos inRange

theorem keyPress_of_outOfRange (s : State) {code : Nat} (outOfRange : ¬(1 ≤ code ∧ code ≤ 16)) :
    keyPress code s = .refused (.keyCodeOutOfRange code) :=
  dif_neg outOfRange

/-! The obligations about timers and the keyboard (spec file 44). Each word is the encoding of its instruction. -/

/-- Settles O17, by the effects. -/
theorem timersChangedOnlyByTheirWrites : Obligations.TimersChangedOnlyByTheirWrites :=
  fun _ _ _ h => ⟨(exec_effect h).dt_kept, (exec_effect h).st_kept⟩

/-- Settles O57: the read is a register write, the write changes `DT` and `PC`. -/
theorem delayTimerReadAndWrite : Obligations.DelayTimerReadAndWrite := by
  intro x
  refine ⟨decode_encode (.ldVxDt x), decode_encode (.ldDtVx x), fun s => ⟨?read, ?write⟩⟩
  case read => exact ⟨_, rfl, State.reg_setReg_self s x s.dt, registerFrame_setReg s x s.dt⟩
  case write => exact ⟨_, rfl, rfl, frame_setDt s (s.reg x)⟩

/-- Settles O58: the sound is on unless 0 is stored, and 0 is stored only for 0. -/
theorem soundTimerWrite : Obligations.SoundTimerWrite := by
  intro x
  refine ⟨decode_encode (.ldStVx x), fun s => ⟨_, rfl, toNat_soundValue (s.reg x), ?level, frame_setSt s _⟩⟩
  exact (State.snd_iff _).trans (toNat_soundValue_ne_zero (s.reg x))

/-- Settles O59: each test decides the comparison with the value of `KEY`. -/
theorem skipOnKey : Obligations.SkipOnKey := by
  intro x
  refine ⟨decode_encode (.skp x), decode_encode (.sknp x), fun s => ?_⟩
  have key := s.eq_keyByte_iff (s.reg x)
  exact ⟨⟨_, rfl, transferFrame_skipIf s (beq_iff_eq.trans key)⟩,
    ⟨_, rfl, transferFrame_skipIf s (bne_iff_ne.trans key.not)⟩⟩

/-- Settles O60, by whether a key is pressed. -/
theorem keyWait : Obligations.KeyWait := by
  intro x
  refine ⟨decode_encode (.ldVxK x), fun s => ⟨fun released => ?waits, fun pressed => ?reads⟩⟩
  case waits => exact exec_ldVxK_of_released x (Fin.ext released)
  case reads =>
    refine ⟨_, exec_ldVxK_of_pressed x (mt (congrArg Fin.val) pressed), ?value, rfl, rfl, regsKept_setReg s x s.keyByte,
      fun _ _ => rfl⟩
    rw [State.advance_reg, State.setWait_reg, State.reg_setReg_self, s.toNat_keyByte]

/-- Settles O28: both timers by the one count-down, the level by what is left of `ST`. -/
theorem timerTickCountsDown : Obligations.TimerTickCountsDown := by
  intro s
  have delay : (timerTick s).dt.toNat = s.dt.toNat - 1 := toNat_countDown s.dt
  have sound : (timerTick s).st.toNat = s.st.toNat - 1 := toNat_countDown s.st
  have level : (timerTick s).snd = true ↔ 1 < s.st.toNat := by
    rw [State.snd_iff, sound]
    omega
  exact ⟨timerTick s, rfl, fun _ => delay, fun _ => by omega, fun _ => sound, fun _ => by omega, level, rfl⟩

/-- Settles O29, by whether the code lies in 1 to 16. -/
theorem keyEventsSetKey : Obligations.KeyEventsSetKey := by
  intro s
  refine ⟨fun code low high => ?pressed, fun code outside => ?refused, rfl⟩
  case pressed => exact ⟨_, keyPress_of_inRange s ⟨low, high⟩, rfl, rfl⟩
  case refused => exact keyPress_of_outOfRange s (by omega)

end Sys2Proof.Machine
end

section
/-! SUPPORT. Exceptions (spec file 60): what a fatal fault carries, which instructions raise one, and a `Step` on a word of no row. -/

namespace Sys2Proof.Machine

/-- 60 R206: the report has the `PC` of the state the fault was raised at, which is the state carried but for `FAULTED`. -/
theorem eq_of_fatalAt_eq_fatal {s t : State} {c : FatalCause} {r : FatalReport}
    (h : FatalAt s c = .fault (.fatal r t)) : r.pc = s.pc ∧ t = { s with faulted := some r } := by
  cases h
  exact ⟨rfl, rfl⟩

/-- 60 R201: a `Step` of a core that is not `FAULTED` on a word of no row. -/
theorem cycle_of_unmatched {s : State} {w : Word} {e : DecodeError} (hf : s.faulted = none) (hw : s.fetch = .ok w)
    (hd : decode w = .error e) : cycle s = .fault (.decodeFailure s.pc w) := by
  simp only [cycle, hf, hw, State.check_ok, executeWord, hd]

/-! The obligations about exceptions (spec file 60). -/

/-- Settles O12: six instructions check something, each by its one check; every other instruction answers a next state by its
definition. -/
theorem instructionsFaultOnlyAsListed : Obligations.InstructionsFaultOnlyAsListed := by
  intro i s
  cases i with
  | ret =>
    rcases execRet_cases s with ⟨_, _, -, e⟩ | ⟨empty, e⟩
    · exact .inl ⟨_, e⟩
    · exact .inr (.inl ⟨rfl, empty, e⟩)
  | call nnn =>
    rcases execCall_cases nnn s with ⟨-, e⟩ | ⟨full, e⟩
    · exact .inl ⟨_, e⟩
    · exact .inr (.inr (.inl ⟨nnn, rfl, full, e⟩))
  | drw x y n =>
    rcases execDrw_cases x y n s with ⟨-, e⟩ | ⟨rows, exceeds, e⟩
    · exact .inl ⟨_, e⟩
    · have hn : n ≠ 0 := by bv_omega
      exact .inr (.inr (.inr ⟨_, exceeds, e, .inl ⟨x, y, n, rfl, hn, rfl⟩⟩))
  | ldB x =>
    rcases execLdB_cases x s with ⟨-, e⟩ | ⟨exceeds, e⟩
    · exact .inl ⟨_, e⟩
    · exact .inr (.inr (.inr ⟨_, exceeds, e, .inr (.inl ⟨x, rfl, rfl⟩)⟩))
  | ldMemVx x =>
    rcases execLdMemVx_cases x s with ⟨-, e⟩ | ⟨exceeds, e⟩
    · exact .inl ⟨_, e⟩
    · exact .inr (.inr (.inr ⟨_, exceeds, e, .inr (.inr (.inl ⟨x, rfl, rfl⟩))⟩))
  | ldVxMem x =>
    rcases execLdVxMem_cases x s with ⟨-, e⟩ | ⟨exceeds, e⟩
    · exact .inl ⟨_, e⟩
    · exact .inr (.inr (.inr ⟨_, exceeds, e, .inr (.inr (.inr ⟨x, rfl, rfl⟩))⟩))
  | ldVxK x => rcases execLdVxK_cases x s with ⟨-, e⟩ | ⟨-, e⟩ <;> exact .inl ⟨_, e⟩
  | _ => exact .inl ⟨_, rfl⟩

/-- Settles O11: each of the faults that O12 lists is the fatal fault of the state the instruction ran at. -/
theorem fatalFaultChangesOnlyFaulted : Obligations.FatalFaultChangesOnlyFaulted := by
  intro i s t r h
  rcases instructionsFaultOnlyAsListed i s with ⟨u, e⟩ | ⟨-, -, e⟩ | ⟨_, -, -, e⟩ | ⟨_, -, e, -⟩
  · exact absurd (e.symm.trans h) nofun
  all_goals exact eq_of_fatalAt_eq_fatal (e.symm.trans h)

/-- Settles O10: an idle machine's step is a `Step`, and a decode failure leaves the core in the state it was raised at. -/
theorem decodeFailureChangesNothing : Obligations.DecodeFailureChangesNothing := by
  intro s w ⟨idle, running, fetched⟩ unmatched
  have failure := cycle_of_unmatched running fetched unmatched
  exact ⟨(step_of_idle idle).trans failure, by rw [afterEvent_step, failure, State.after]⟩

end Sys2Proof.Machine
end

section
/-! SUPPORT. Reset and program loading (spec file 70): `Initialize` and `LoadProgram`, one rule for each side of their bounds. -/

namespace Sys2Proof.Machine

/-! Blocks of memory read back (20 R52, R56). -/

/-- Inside a stored block memory reads as the block. -/
theorem Memory.some_read_writeBytes {m : Memory} (hm : Memory.wf m) (a : Nat) {bs : List Byte} {j : Nat}
    (inside : j < bs.length) : some (Memory.read (Memory.writeBytes m a bs) (a + j)) = bs[j]? := by
  have stored : bs[j]? = some bs[j] := List.getElem?_eq_getElem inside
  rw [Memory.read_writeBytes_add hm a stored, stored]

/-- 10 R46: after `Initialize` memory holds the font from `FONT_BASE` on. -/
theorem Memory.some_read_writeBytes_cleared {base a : Nat} {font : List Byte} (above : base ≤ a)
    (below : a < base + font.length) :
    some (Memory.read (Memory.writeBytes Memory.cleared base font) a) = font[a - base]? := by
  obtain ⟨j, rfl⟩ := Nat.exists_eq_add_of_le above
  rw [Nat.add_sub_cancel_left, Memory.some_read_writeBytes Memory.wf_cleared base (by omega)]

/-- 10 R46: after `Initialize` memory is 0 outside the font. -/
theorem Memory.read_writeBytes_cleared_of_outside {base a : Nat} {font : List Byte}
    (outside : ¬(base ≤ a ∧ a < base + font.length)) :
    Memory.read (Memory.writeBytes Memory.cleared base font) a = 0 := by
  rw [Memory.read_writeBytes Memory.wf_cleared, if_neg outside, Memory.read_cleared]

/-! The calls outside their bounds (70 R231, R234). -/

theorem initialise_of_tooLarge {s : State} (start delay sound index : Nat) {font : List Byte}
    (tooLarge : Config.memSize < s.par.fontBase + font.length) :
    initialise start delay sound index font s = .refused (.fontDoesNotFit font.length) :=
  if_neg (Nat.not_le.mpr tooLarge)

theorem loadProgram_of_tooLarge (s : State) {bytes : List Byte} {start : Nat}
    (tooLarge : Config.memSize < start + bytes.length) : loadProgram bytes start s = (s, .loadRefused) :=
  if_neg (Nat.not_le.mpr tooLarge)

/-! `LoadProgram` with an image that fits (70 R234). -/

theorem loadProgram_of_fits (s : State) {bytes : List Byte} {start : Nat}
    (fits : start + bytes.length ≤ Config.memSize) :
    loadProgram bytes start s =
      (((s.setMem (Memory.writeBytes s.mem start bytes)).setRegs (Vector.replicate 16 0)).setWait false, .silent) :=
  if_pos fits

/-! The obligations about reset and program loading (spec file 70). -/

/-- Settles O25, by whether the font fits: the registers and cells by their reads, memory by the font over cleared memory, every
other piece of state by definition. -/
theorem initialiseSetsEverything : Obligations.InitialiseSetsEverything := by
  intro s start delay sound index font
  refine ⟨fun fits => ⟨_, if_pos fits, ?values⟩, initialise_of_tooLarge start delay sound index⟩
  case values =>
    exact ⟨State.setRegs_zero_reg s, BitVec.toNat_ofNat index 16, BitVec.toNat_ofNat start 16, rfl,
      fun _ => Memory.some_read_writeBytes_cleared, fun _ => Memory.read_writeBytes_cleared_of_outside,
      Display.lit_clear, rfl, rfl, rfl, BitVec.toNat_ofNat delay 8, BitVec.toNat_ofNat sound 8,
      rfl, rfl, rfl, rfl, rfl, rfl⟩

/-- Settles O27, by whether the image fits. -/
theorem loadProgramCopiesImage : Obligations.LoadProgramCopiesImage := by
  intro s bytes start hm
  refine ⟨fun fits => ?loaded, fun tooLarge => ?refused⟩
  case loaded =>
    exact ⟨_, congrArg Host.Outcome.next (loadProgram_of_fits s fits), fun _ => Memory.some_read_writeBytes hm start,
      bytesKept_writeBytes hm start bytes, State.setRegs_zero_reg s, rfl, rfl⟩
  case refused => exact congrArg Host.Outcome.next (loadProgram_of_tooLarge s tooLarge)

/-- Settles O26: the default font over cleared memory is the memory of reset, in which nothing is listed. -/
theorem initialiseWithDefaultsIsReset : Obligations.InitialiseWithDefaultsIsReset := by
  intro s hpar
  have fits : Config.Params.default.fontBase + Config.fontData.length ≤ Config.memSize := by decide
  have memory : Memory.writeBytes Memory.cleared Config.Params.default.fontBase Config.fontData = [] :=
    Memory.writeBytes_cleared_default
  simp only [handle, initialise, hpar, if_pos fits, memory, State.reset]

end Sys2Proof.Machine
end
